-- ==== Sys2Proof/Word.lean ====
section
/-! DEFINITION. The word types of MARSH (`00_scope.md` section 5): a byte is 8 bits, registers are 8, 16, 32 or 64 bits
wide, and SESSION_ID and HASH are byte sequences of fixed length with no numeric meaning (R22, R29, R62). -/

namespace Sys2Proof

/-- A byte, the unit of both memories and of the wire format. -/
abbrev Byte := BitVec 8

/-- A 16-bit command word (R120). -/
abbrev Half := BitVec 16

/-- A 32-bit register: SEQUENCE, PAYLOAD_LEN, ARG_LEN, WIRE_LEN (R20, R33). -/
abbrev Word := BitVec 32

/-- A 64-bit register: TIMESTAMP, NOW (R20, R33). -/
abbrev Double := BitVec 64

/-- A byte sequence of any length (`00_scope.md` section 5). -/
abbrev Bytes := List Byte

/-- A SessionId: 16 bytes, compared by raw bits (R22). -/
abbrev SessionId := Vector Byte 16

/-- An integrity hash: 32 bytes (R29, R203). -/
abbrev Hash := Vector Byte 32

end Sys2Proof
end

