-- ==== Sys2Proof/Config.lean ====
section
/-! DEFINITION. The constants the source fixes (R3), the parameters it leaves open (R4 to R7) and the draws (R8, R41, R68).

`Params` is one choice of everything an implementation may choose. `Config.marsh` is the choice of the machine that is
modelled: each of its parts is a constant with no body, so nothing can be proved about its value. The commands are written
over any `Params`, so that the vectors of `95_test_vectors.md` can be run on that file's test choice T0; the machine itself
(`exec`, `step`) is always `Config.marsh`. -/

namespace Sys2Proof

namespace Config

/-- HEADER_LEN (R3). -/
abbrev headerLen : Nat := 36

/-- HASH_LEN (R3). -/
abbrev hashLen : Nat := 32

/-- MAX_PAYLOAD, 10 MiB (R3). -/
abbrev maxPayload : Nat := 10485760

/-- MIN_PACKET = HEADER_LEN + HASH_LEN (R3). -/
abbrev minPacket : Nat := 68

/-- MAX_PACKET = HEADER_LEN + MAX_PAYLOAD + HASH_LEN (R3). -/
abbrev maxPacket : Nat := 10485828

/-- The number of bytes of the wire buffer W (R60). -/
abbrev wireSize : Nat := maxPacket

/-- The number of bytes of the payload buffer P (R60). -/
abbrev payloadSize : Nat := maxPayload

/-- Ping, the one Intent code the source gives (R114). -/
abbrev ping : Byte := 0x01

/-- Priority Normal (R24). -/
abbrev priorityNormal : Byte := 0x80

end Config

/-- Everything the spec leaves to the implementation or to the environment (`00_scope.md` section 4). -/
structure Params where
  /-- SUPPORTED_VERSION (R4). -/
  supportedVersion : Byte
  /-- The members of INTENT_DEFINED beside Ping (R5). -/
  otherIntent : Byte → Bool
  /-- DEFAULT_FLAGS (R7). -/
  defaultFlags : Byte
  /-- DIGEST: total and deterministic, 32 bytes out; nothing else is known of it (R6, R201, R206). -/
  digest : Bytes → Hash
  /-- The n-th sample of NOW (R8, R41). -/
  now : Nat → Double
  /-- What W holds at an address after the k-th reset, as long as nothing has written it (R68, R310). -/
  wireFill : Nat → Nat → Byte
  /-- What P holds at an address after the k-th reset, as long as nothing has written it (R68, R310). -/
  payloadFill : Nat → Nat → Byte

/-- Membership in INTENT_DEFINED, whose one constraint is that Ping is in it (R5). -/
def Params.intentDefined (p : Params) (b : Byte) : Bool :=
  b == Config.ping || p.otherIntent b

namespace Config

/-- SUPPORTED_VERSION (R4, D9). Open; log 3. -/
opaque supportedVersion : Byte

/-- INTENT_DEFINED beside Ping (R5, D10). Open; log 4. -/
opaque otherIntent : Byte → Bool

/-- DIGEST (R6, D12). Open, and uninterpreted; log 5. -/
opaque digest : Bytes → Hash

/-- DEFAULT_FLAGS (R7, D13). Open; log 6. -/
opaque defaultFlags : Byte

/-- The n-th sample of NOW, under no law (R8, R41, D17). A free value; log 7. -/
opaque now : Nat → Double

/-- The unspecified contents of W after each reset (R68, R310, D25). A free value; log 8. -/
opaque wireFill : Nat → Nat → Byte

/-- The unspecified contents of P after each reset (R68, R310, D25). A free value; log 8. -/
opaque payloadFill : Nat → Nat → Byte

/-- The machine that is modelled: every open point at its constant with no body. -/
def marsh : Params where
  supportedVersion := supportedVersion
  otherIntent := otherIntent
  defaultFlags := defaultFlags
  digest := digest
  now := now
  wireFill := wireFill
  payloadFill := payloadFill

end Config

end Sys2Proof
end

