-- ==== Sys2Proof/Syntax.lean ====
section
/-! DEFINITION. The fifteen commands (R121), the register names and numbers (R20, R33), and the actions of the host
(R10, R42, R45, R310), of which a write of CMD is the one that issues a command (R34). -/

namespace Sys2Proof

/-- The commands of R121, one constructor per row of `opcode_table.json`. An operand is the byte imm8 as it stands,
unsigned, neither extended nor scaled (R120); a value of an enumeration is its code (R140). -/
inductive Instr where
  | chkIntent (imm8 : Byte)   -- CHK_INTENT, R142
  | chkComp (imm8 : Byte)     -- CHK_COMP, R144
  | chkEnc (imm8 : Byte)      -- CHK_ENC, R146
  | getComp                   -- GET_COMP, R171
  | setComp (imm8 : Byte)     -- SET_COMP, R172
  | getEnc                    -- GET_ENC, R173
  | setEnc (imm8 : Byte)      -- SET_ENC, R174
  | getFrag                   -- GET_FRAG, R175
  | setFrag (imm8 : Byte)     -- SET_FRAG, R176
  | getAck                    -- GET_ACK, R177
  | setAck (imm8 : Byte)      -- SET_ACK, R178
  | construct (imm8 : Byte)   -- CONSTRUCT, R220
  | encode                    -- ENCODE, R230
  | decode                    -- DECODE, R240
  | verify                    -- VERIFY, R250
deriving DecidableEq, Repr

/-- The sixteen registers by name (R20, R33). -/
inductive Reg where
  | version | sessionId | intent | priority | flags | sequence | payloadLen | timestamp | hash
  | cmd | status | errByte | result | argLen | wireLen | now
deriving DecidableEq, Repr

/-- A register's whole value at one of the widths registers have (R20, R33, R42). -/
inductive RegValue where
  | byte (v : Byte)
  | half (v : Half)
  | word (v : Word)
  | double (v : Double)
  | session (v : SessionId)
  | digest (v : Hash)
deriving DecidableEq, Repr

/-- One action of the host (R10). Register numbers and buffer addresses are whatever the host names; those that do not
exist are not actions the host has (R47, R67) and the machine refuses them. -/
inductive HostAction where
  /-- `WR <reg>, <value>`; a write of CMD issues a command (R34, R42). -/
  | writeReg (number : Nat) (value : RegValue)
  /-- `RD <reg>` (R42). -/
  | readReg (number : Nat)
  /-- One byte of `WRM W[<a>]` (R64). -/
  | writeWire (address : Nat) (value : Byte)
  /-- One byte of `RDM W[<a>]` (R64). -/
  | readWire (address : Nat)
  /-- One byte of `WRM P[<a>]` (R64). -/
  | writePayload (address : Nat) (value : Byte)
  /-- One byte of `RDM P[<a>]` (R64). -/
  | readPayload (address : Nat)
  /-- The reset input (R310). -/
  | reset
deriving DecidableEq, Repr

/-- Register numbers (R20, R33). -/
def Reg.number : Reg → Nat
  | .version => 0x00
  | .sessionId => 0x01
  | .intent => 0x02
  | .priority => 0x03
  | .flags => 0x04
  | .sequence => 0x05
  | .payloadLen => 0x06
  | .timestamp => 0x07
  | .hash => 0x08
  | .cmd => 0x10
  | .status => 0x11
  | .errByte => 0x12
  | .result => 0x13
  | .argLen => 0x14
  | .wireLen => 0x15
  | .now => 0x16

/-- All registers, in the order of their numbers. -/
def Reg.all : List Reg :=
  [.version, .sessionId, .intent, .priority, .flags, .sequence, .payloadLen, .timestamp, .hash,
   .cmd, .status, .errByte, .result, .argLen, .wireLen, .now]

/-- The register a number names, if it names one (R47). -/
def Reg.ofNumber (n : Nat) : Option Reg :=
  Reg.all.find? (fun r => r.number == n)

/-- The host's act of issuing a command word (R34). -/
abbrev HostAction.command (w : Half) : HostAction :=
  .writeReg Reg.cmd.number (.half w)

end Sys2Proof
end

