-- ==== Sys2Proof/WellFormed.lean ====
section
/-! DEFINITION. Which commands and which host actions the spec gives a meaning: operand domains (R122), register numbers
and widths (R42, R47), buffer addresses (R67). -/

namespace Sys2Proof

/-- The operand domains of R122. A command outside its domain decodes and is refused by the command itself (R280). -/
def Instr.wellFormed (p : Params) : Instr → Bool
  | .chkIntent _ => true
  | .chkComp _ => true
  | .chkEnc _ => true
  | .getComp => true
  | .setComp c => decide (c.toNat ≤ 3)
  | .getEnc => true
  | .setEnc e => decide (e.toNat ≤ 2)
  | .getFrag => true
  | .setFrag b => decide (b.toNat ≤ 1)
  | .getAck => true
  | .setAck b => decide (b.toNat ≤ 1)
  | .construct c => p.intentDefined c
  | .encode => true
  | .decode => true
  | .verify => true

/-- The width column of R20 and R33: is the value as wide as the register? -/
def Reg.fits : Reg → RegValue → Bool
  | .version, .byte _ => true
  | .sessionId, .session _ => true
  | .intent, .byte _ => true
  | .priority, .byte _ => true
  | .flags, .byte _ => true
  | .sequence, .word _ => true
  | .payloadLen, .word _ => true
  | .timestamp, .double _ => true
  | .hash, .digest _ => true
  | .cmd, .half _ => true
  | .status, .byte _ => true
  | .errByte, .byte _ => true
  | .result, .byte _ => true
  | .argLen, .word _ => true
  | .wireLen, .word _ => true
  | .now, .double _ => true
  | _, _ => false

/-- Is this one of the actions the host has (R42, R47, R67)? -/
def HostAction.wellFormed : HostAction → Bool
  | .writeReg n v => (Reg.ofNumber n).any (fun r => r.fits v)
  | .readReg n => (Reg.ofNumber n).isSome
  | .writeWire a _ => decide (a < Config.wireSize)
  | .readWire a => decide (a < Config.wireSize)
  | .writePayload a _ => decide (a < Config.payloadSize)
  | .readPayload a => decide (a < Config.payloadSize)
  | .reset => true

end Sys2Proof
end

