-- ==== Sys2Proof/Decode.lean ====
section
/-! DEFINITION. The command word (R120, R121, R123): the fifteen rows of the opcode table, the decoder that matches
`word AND mask = match` over them, and the encoder. Decoding is total; a word that encodes no command is rejected with the
reason. -/

namespace Sys2Proof

/-- Why a word encodes no command (R123). -/
inductive DecodeError where
  /-- The opcode is none of the fifteen. -/
  | reservedOpcode (opcode : Byte)
  /-- The opcode takes no operand and imm8 is not zero. -/
  | reservedOperand (opcode imm8 : Byte)
deriving DecidableEq, Repr

/-- One row of `opcode_table.json`: mask, match, and the command made from imm8. -/
structure OpcodeRow where
  mask : Half
  pattern : Half
  build : Byte → Instr

/-- Bits 15:8 of a command word (R120). -/
def opcodeOf (w : Half) : Byte := w.extractLsb' 8 8

/-- Bits 7:0 of a command word (R120). -/
def imm8Of (w : Half) : Byte := w.extractLsb' 0 8

/-- The word of opcode and imm8: opcode times 256 plus imm8 (R120, R125). -/
def wordOf (opcode imm8 : Byte) : Half := opcode ++ imm8

/-- The table of R121, with the masks R121 gives: 0xFF00 where imm8 is an operand, 0xFFFF where it must be zero. -/
def opcodeTable : List OpcodeRow :=
  [⟨0xFF00, 0x1000, fun b => .chkIntent b⟩,
   ⟨0xFF00, 0x1100, fun b => .chkComp b⟩,
   ⟨0xFF00, 0x1200, fun b => .chkEnc b⟩,
   ⟨0xFFFF, 0x2000, fun _ => .getComp⟩,
   ⟨0xFF00, 0x2100, fun b => .setComp b⟩,
   ⟨0xFFFF, 0x2200, fun _ => .getEnc⟩,
   ⟨0xFF00, 0x2300, fun b => .setEnc b⟩,
   ⟨0xFFFF, 0x2400, fun _ => .getFrag⟩,
   ⟨0xFF00, 0x2500, fun b => .setFrag b⟩,
   ⟨0xFFFF, 0x2600, fun _ => .getAck⟩,
   ⟨0xFF00, 0x2700, fun b => .setAck b⟩,
   ⟨0xFF00, 0x3000, fun b => .construct b⟩,
   ⟨0xFFFF, 0x3100, fun _ => .encode⟩,
   ⟨0xFFFF, 0x3200, fun _ => .decode⟩,
   ⟨0xFFFF, 0x3300, fun _ => .verify⟩]

/-- `word AND mask = match` (R121). -/
def OpcodeRow.matchesWord (r : OpcodeRow) (w : Half) : Bool := w &&& r.mask == r.pattern

/-- Why a word that matches no row was rejected: a row has its opcode and asks for a zero operand, or none has (R123). -/
def rejection (w : Half) : DecodeError :=
  if opcodeTable.any (fun r => opcodeOf r.pattern == opcodeOf w) then
    .reservedOperand (opcodeOf w) (imm8Of w)
  else
    .reservedOpcode (opcodeOf w)

/-- The decoder: the row the word matches, applied to imm8 (R121), or the reason there is none (R123). -/
def decode (w : Half) : Except DecodeError Instr :=
  match opcodeTable.find? (fun r => r.matchesWord w) with
  | some r => .ok (r.build (imm8Of w))
  | none => .error (rejection w)

/-- The encoder: opcode and imm8 of each command (R121), imm8 zero where there is no operand (R123). -/
def encode : Instr → Half
  | .chkIntent b => wordOf 0x10 b
  | .chkComp b => wordOf 0x11 b
  | .chkEnc b => wordOf 0x12 b
  | .getComp => wordOf 0x20 0x00
  | .setComp b => wordOf 0x21 b
  | .getEnc => wordOf 0x22 0x00
  | .setEnc b => wordOf 0x23 b
  | .getFrag => wordOf 0x24 0x00
  | .setFrag b => wordOf 0x25 b
  | .getAck => wordOf 0x26 0x00
  | .setAck b => wordOf 0x27 b
  | .construct b => wordOf 0x30 b
  | .encode => wordOf 0x31 0x00
  | .decode => wordOf 0x32 0x00
  | .verify => wordOf 0x33 0x00

/-- The decoder on a word of `nbits` bits numbered as `opcode_table.json` numbers them. A command is one 16-bit word
written whole to CMD (R34, R120), so it has no byte order; a number that needs more than 16 bits is no command word. -/
def decodeTableWord (nbits w : Nat) : Option Instr :=
  let v := w % 2 ^ nbits
  if v < 2 ^ 16 then (decode (BitVec.ofNat 16 v)).toOption else none

end Sys2Proof
end

