-- ==== Sys2Proof/Machine/State.lean ====
section
/-! DEFINITION. The state of one MARSH with its host (INVENTORY.md, State), the reasons a step can stop, the error
outcomes of R270 and R280, and the state after reset (R46, R310). All of it is plain data. -/

namespace Sys2Proof.Machine

/-- A byte memory: the bytes written since reset, strictly rising by address, none equal to what its address holds
unwritten (`Memory.wf` in Ops.lean; log 9). -/
abbrev Memory := List Host.Cell

/-- Faults. There is none: "No behaviour of MARSH is treated as `fault` or `stuck`" (`93_implementation_defined.md`, end
of part 1). Every error the spec names is an outcome in STATUS and a next state (R270, R272). -/
inductive Fault where
deriving DecidableEq, Repr

/-- Refusals of the model. The machine's own refusal of a command, STATUS 0xFF, is not one of these: it is a next state
(R280, log 13). -/
inductive Refusal where
  /-- A command that has no meaning yet; raised by `exec`. Safe. No arm raises it. -/
  | notModelled (mnemonic : String)
  /-- The host named a register number that names no register (R47); raised by a register read or write. Safe. -/
  | noSuchRegister (number : Nat)
  /-- The host wrote a value of another width than the register's (R42, log 15); raised by a register write. Safe. -/
  | wrongWidth (number : Nat)
  /-- The host named a W address above 10,485,827 (R67); raised by a W byte access. Safe. -/
  | noSuchWireAddress (address : Nat)
  /-- The host named a P address above 10,485,759 (R67); raised by a P byte access. Safe. -/
  | noSuchPayloadAddress (address : Nat)
deriving DecidableEq, Repr

/-- The seven errors of the source (R270) and the refusal outcome of R280. -/
inductive ErrorOutcome where
  | tooSmall
  | tooLarge
  | unsupportedVersion (byte : Byte)
  | invalidIntent (byte : Byte)
  | lengthMismatch
  | invalidHash
  | payloadTooLarge
  | refused
deriving DecidableEq, Repr

/-- MARSH's registers and memories (R20, R33, R45), then the model's own fields. VERSION and CMD store nothing (R21, R34)
and NOW is not MARSH's (R41): `State.readReg` gives their reads. -/
structure State where
  /-- SESSION_ID (0x01), R22. -/
  sessionId : SessionId
  /-- INTENT (0x02), R23. -/
  intent : Byte
  /-- PRIORITY (0x03), R24. -/
  priority : Byte
  /-- FLAGS (0x04), raw, R25. -/
  flags : Byte
  /-- SEQUENCE (0x05), R26. -/
  sequence : Word
  /-- PAYLOAD_LEN (0x06), R27. -/
  payloadLen : Word
  /-- TIMESTAMP (0x07), R28. -/
  timestamp : Double
  /-- HASH (0x08), R29. -/
  hash : Hash
  /-- STATUS (0x11), R35. -/
  status : Byte
  /-- ERR_BYTE (0x12), R36. -/
  errByte : Byte
  /-- RESULT (0x13), R37. -/
  result : Byte
  /-- ARG_LEN (0x14), R38. -/
  argLen : Word
  /-- WIRE_LEN (0x15), R39. -/
  wireLen : Word
  /-- The wire buffer W, R60. -/
  wire : Memory
  /-- The payload buffer P, R60. -/
  payload : Memory
  /-- The model's own: how many resets the host has made, so that each leaves the memories unspecified afresh (log 8). -/
  resets : Nat
  /-- The model's own: how many samples of NOW have been drawn (log 7). -/
  nowDraws : Nat
  /-- The model's own: the host's actions still to come, oldest first (log 1). -/
  pending : List HostAction
  /-- The model's own: what the host's reads returned, newest first (log 16). -/
  answers : List RegValue
deriving DecidableEq, Repr

/-- The state after reset of a machine with the parameters `p`: the table of R46, with nothing written to W or P. -/
def State.resetOf (p : Params) : State where
  sessionId := Vector.replicate 16 0x00
  intent := Config.ping
  priority := Config.priorityNormal
  flags := p.defaultFlags
  sequence := 0x00000000
  payloadLen := 0x00000000
  timestamp := 0x0000000000000000
  hash := Vector.replicate 32 0x00
  status := 0x00
  errByte := 0x00
  result := 0x00
  argLen := 0x00000000
  wireLen := 0x00000000
  wire := []
  payload := []
  resets := 0
  nowDraws := 0
  pending := []
  answers := []

/-- The machine right after reset (R46, R310). -/
def State.reset : State := State.resetOf Config.marsh

end Sys2Proof.Machine
end

