-- ==== Sys2Proof/Machine/Ops.lean ====
section
/-! DEFINITION. The named operations every command and every host access is written with: reading and writing the two
memories (R60, R68, `00_scope.md` section 5), ending a command well or with an error outcome (R271, R272), sampling NOW
(R41), and the registers as the host reads and writes them (R20, R33, R42). -/

namespace Sys2Proof.Machine

/-! ### Byte memories -/

/-- The canonical form (log 9): addresses strictly rising and inside the memory, and no entry equal to what its address
holds unwritten. -/
abbrev Memory.wf (fill : Nat → Byte) (size : Nat) (m : Memory) : Prop :=
  m.Pairwise (fun x y => x.1 < y.1) ∧ ∀ c ∈ m, c.1 < size ∧ c.2 ≠ fill c.1

/-- The byte at an address: the last one written, or the unspecified one it holds since reset (R68). -/
def Memory.read (fill : Nat → Byte) : Memory → Nat → Byte
  | [], a => fill a
  | c :: m, a => if c.1 = a then c.2 else Memory.read fill m a

/-- The memory with the entry of an address dropped. -/
def Memory.erase (a : Nat) (m : Memory) : Memory := m.filter (fun c => c.1 != a)

/-- The memory with an entry put where the order of addresses wants it. -/
def Memory.insert (a : Nat) (b : Byte) : Memory → Memory
  | [] => [(a, b)]
  | c :: m => if a < c.1 then (a, b) :: c :: m else c :: Memory.insert a b m

/-- Storing one byte: the old entry goes, and a new one comes unless it would say what the address holds unwritten. -/
def Memory.write (fill : Nat → Byte) (a : Nat) (b : Byte) (m : Memory) : Memory :=
  if b = fill a then Memory.erase a m else Memory.insert a b (Memory.erase a m)

/-- `MemRead(a, n)`: n bytes, lowest address first (`00_scope.md` section 5). -/
def Memory.readBytes (fill : Nat → Byte) (m : Memory) (a : Nat) : Nat → Bytes
  | 0 => []
  | n + 1 => Memory.read fill m a :: Memory.readBytes fill m (a + 1) n

/-- `MemWrite(a, n, v)` with n the length of v (`00_scope.md` section 5). -/
def Memory.writeBytes (fill : Nat → Byte) : Bytes → Nat → Memory → Memory
  | [], _, m => m
  | b :: bs, a, m => Memory.writeBytes fill bs (a + 1) (Memory.write fill a b m)

/-- What W's unwritten addresses hold in this state (R68, R310). -/
def State.wireFill (p : Params) (s : State) : Nat → Byte := p.wireFill s.resets

/-- What P's unwritten addresses hold in this state (R68, R310). -/
def State.payloadFill (p : Params) (s : State) : Nat → Byte := p.payloadFill s.resets

/-- W[a]. -/
def State.readW (p : Params) (s : State) (a : Nat) : Byte := Memory.read (s.wireFill p) s.wire a

/-- P[a]. -/
def State.readP (p : Params) (s : State) (a : Nat) : Byte := Memory.read (s.payloadFill p) s.payload a

/-- `MemRead(W:a, n)`. -/
def State.readWs (p : Params) (s : State) (a n : Nat) : Bytes := Memory.readBytes (s.wireFill p) s.wire a n

/-- `MemRead(P:a, n)`. -/
def State.readPs (p : Params) (s : State) (a n : Nat) : Bytes := Memory.readBytes (s.payloadFill p) s.payload a n

/-- `MemWrite(W:a, len(v), v)`. -/
def State.writeWs (p : Params) (a : Nat) (v : Bytes) (s : State) : State :=
  { s with wire := Memory.writeBytes (s.wireFill p) v a s.wire }

/-- `MemWrite(P:a, len(v), v)`. -/
def State.writePs (p : Params) (a : Nat) (v : Bytes) (s : State) : State :=
  { s with payload := Memory.writeBytes (s.payloadFill p) v a s.payload }

/-! ### Outcomes of a command -/

/-- The STATUS codes of R35 and R271. -/
def ErrorOutcome.code : ErrorOutcome → Byte
  | .tooSmall => 0x01
  | .tooLarge => 0x02
  | .unsupportedVersion _ => 0x03
  | .invalidIntent _ => 0x04
  | .lengthMismatch => 0x05
  | .invalidHash => 0x06
  | .payloadTooLarge => 0x07
  | .refused => 0xFF

/-- The byte an error carries, 0x00 where it carries none (R36, R271). -/
def ErrorOutcome.info : ErrorOutcome → Byte
  | .unsupportedVersion b => b
  | .invalidIntent b => b
  | .tooSmall => 0x00
  | .tooLarge => 0x00
  | .lengthMismatch => 0x00
  | .invalidHash => 0x00
  | .payloadTooLarge => 0x00
  | .refused => 0x00

/-- `raise E(info)`, and `refuse`: STATUS, ERR_BYTE and RESULT are written and nothing else (R272, R276, R280). Nothing is
saved and control goes nowhere, so there is no return from it (R277). -/
def State.raise (e : ErrorOutcome) (s : State) : State :=
  { s with status := e.code, errByte := e.info, result := 0x00 }

/-- The end of a command without `raise`: STATUS 0x00, ERR_BYTE 0x00 and the command's RESULT (R36, R37). -/
def State.finish (r : Byte) (s : State) : State :=
  { s with status := 0x00, errByte := 0x00, result := r }

/-! ### The external time input -/

/-- The next sample of NOW (R41). -/
def State.drawnNow (p : Params) (s : State) : Double := p.now s.nowDraws

/-- The state once that sample is drawn: the next one is another draw (R41, log 7). -/
def State.afterDraw (s : State) : State := { s with nowDraws := s.nowDraws + 1 }

/-! ### Registers as the host sees them -/

/-- What a host read of a register returns (R42): VERSION is hardwired (R21), CMD reads 0x0000 (R34), NOW is a draw (R41). -/
def State.readReg (p : Params) (s : State) : Reg → RegValue
  | .version => .byte p.supportedVersion
  | .sessionId => .session s.sessionId
  | .intent => .byte s.intent
  | .priority => .byte s.priority
  | .flags => .byte s.flags
  | .sequence => .word s.sequence
  | .payloadLen => .word s.payloadLen
  | .timestamp => .double s.timestamp
  | .hash => .digest s.hash
  | .cmd => .half 0x0000
  | .status => .byte s.status
  | .errByte => .byte s.errByte
  | .result => .byte s.result
  | .argLen => .word s.argLen
  | .wireLen => .word s.wireLen
  | .now => .double (s.drawnNow p)

/-- What a host write of a register leaves (R42), CMD apart: read-only registers ignore it (R21, R27, R35 to R37, R41),
INTENT takes a defined code only (R23). `none`: the value is not of the register's width. -/
def State.storeReg (p : Params) (s : State) : Reg → RegValue → Option State
  | .version, .byte _ => some s
  | .sessionId, .session v => some { s with sessionId := v }
  | .intent, .byte v => some (if p.intentDefined v then { s with intent := v } else s)
  | .priority, .byte v => some { s with priority := v }
  | .flags, .byte v => some { s with flags := v }
  | .sequence, .word v => some { s with sequence := v }
  | .payloadLen, .word _ => some s
  | .timestamp, .double v => some { s with timestamp := v }
  | .hash, .digest v => some { s with hash := v }
  | .status, .byte _ => some s
  | .errByte, .byte _ => some s
  | .result, .byte _ => some s
  | .argLen, .word v => some { s with argLen := v }
  | .wireLen, .word v => some { s with wireLen := v }
  | .now, .double _ => some s
  | _, _ => none

end Sys2Proof.Machine
end

