-- ==== Sys2Proof/Machine/Operands.lean ====
section
/-! DEFINITION. How commands get their operands: the domains of imm8 (R122), booleans (R115), and the wide operands that
stand in registers and memories (R31, R38, R39, R64, R221). -/

namespace Sys2Proof.Machine

/-- imm8 as a Compression code: 0 to 3 (R122, R172). -/
def isCompOperand (imm8 : Byte) : Bool := decide (imm8 ≤ 3)

/-- imm8 as an EncryptionLevel code: 0 to 2 (R122, R174). -/
def isEncOperand (imm8 : Byte) : Bool := decide (imm8 ≤ 2)

/-- imm8 as a boolean: 0 or 1 (R115, R122, R176, R178). -/
def isBoolOperand (imm8 : Byte) : Bool := decide (imm8 ≤ 1)

/-- A truth value as RESULT holds it (R37, R115). -/
def boolByte (b : Bool) : Byte := if b then 0x01 else 0x00

/-- The payload of the in-memory Packet: the first PAYLOAD_LEN bytes of P (R31). -/
def State.packetPayload (p : Params) (s : State) : Bytes := s.readPs p 0 s.payloadLen.toNat

/-- The length of the payload the host offers to CONSTRUCT (R38, R221). -/
def State.offeredLen (s : State) : Nat := s.argLen.toNat

/-- The length of the input DECODE is given (R39, R325). -/
def State.inputLen (s : State) : Nat := s.wireLen.toNat

/-- `n` bytes of W from `a` on, as a sequence of that fixed length (R62, R93). -/
def State.wireVector (p : Params) (s : State) (a n : Nat) : Vector Byte n :=
  Vector.ofFn (fun i : Fin n => s.readW p (a + i))

end Sys2Proof.Machine
end

