-- ==== Sys2Proof/Machine/Wire.lean ====
section
/-! DEFINITION. The wire format (R90): big-endian integers (R95, log 11), the header builder `hdr` (R91), the hash input
`ser` (R92), and the extraction of fields from a byte sequence (R93). -/

namespace Sys2Proof.Machine

/-- `be_4` (R95). -/
def be4 (v : Word) : Bytes :=
  [v.extractLsb' 24 8, v.extractLsb' 16 8, v.extractLsb' 8 8, v.extractLsb' 0 8]

/-- `be_8` (R95). -/
def be8 (v : Double) : Bytes :=
  [v.extractLsb' 56 8, v.extractLsb' 48 8, v.extractLsb' 40 8, v.extractLsb' 32 8,
   v.extractLsb' 24 8, v.extractLsb' 16 8, v.extractLsb' 8 8, v.extractLsb' 0 8]

/-- `unbe`: the sum of s[i] times 256^(len(s)-1-i) (`00_scope.md` section 5, R95). -/
def unbe (s : Bytes) : Nat := s.foldl (fun acc b => acc * 256 + b.toNat) 0

/-- The header fields of a packet, in wire order (R90). -/
abbrev Header := Byte × SessionId × Byte × Byte × Byte × Word × Word × Double

/-- `hdr`: the 36 header bytes (R91). -/
def hdr : Header → Bytes
  | (ver, sid, intent, prio, flags, seq, n, ts) =>
    [ver] ++ sid.toList ++ [intent] ++ [prio] ++ [flags] ++ be4 seq ++ be4 n ++ be8 ts

/-- The header of the in-memory Packet (R91). -/
def State.header (p : Params) (s : State) : Header :=
  (p.supportedVersion, s.sessionId, s.intent, s.priority, s.flags, s.sequence, s.payloadLen, s.timestamp)

/-- `ser`: the header followed by the payload (R92). -/
def ser (h : Header) (payload : Bytes) : Bytes := hdr h ++ payload

/-- The bytes of W that hold the declared payload length, as a number (R93). -/
def State.declaredLen (p : Params) (s : State) : Nat := unbe (s.readWs p 24 4)

/-- The Packet registers loaded from W, the payload length being `n` (R93, R247). The flag byte is taken whole. -/
def State.loadFields (p : Params) (n : Nat) (s : State) : State :=
  { s with
    sessionId := s.wireVector p 1 16
    intent := s.readW p 17
    priority := s.readW p 18
    flags := s.readW p 19
    sequence := BitVec.ofNat 32 (unbe (s.readWs p 20 4))
    payloadLen := BitVec.ofNat 32 n
    timestamp := BitVec.ofNat 64 (unbe (s.readWs p 28 8))
    hash := s.wireVector p (Config.headerLen + n) 32 }

end Sys2Proof.Machine
end

