-- ==== Sys2Proof/Machine/Integrity.lean ====
section
/-! DEFINITION. The integrity unit (R200 to R204): the hash of the in-memory Packet, and of the bytes received in W.
Comparison is equality of 32-byte sequences (R203). -/

namespace Sys2Proof.Machine

/-- `DIGEST(ser(P))`, from the Packet's current registers and payload (R200, R202). -/
def State.packetHash (p : Params) (s : State) : Hash :=
  p.digest (ser (s.header p) (s.packetPayload p))

/-- The full encoding of the in-memory Packet, `ser(P)` followed by its hash: 36 + N + 32 bytes (R90, R92, R231). -/
def State.encoding (p : Params) (s : State) : Bytes :=
  ser (s.header p) (s.packetPayload p) ++ (s.packetHash p).toList

/-- `DIGEST(W[0..36+n))`, the hash over what the wire buffer holds before the hash field (R202, R246). -/
def State.wireHash (p : Params) (n : Nat) (s : State) : Hash :=
  p.digest (s.readWs p 0 (Config.headerLen + n))

/-- `W[36+n..68+n)`, the hash a received packet carries (R246). -/
def State.carriedHash (p : Params) (n : Nat) (s : State) : Hash :=
  s.wireVector p (Config.headerLen + n) 32

end Sys2Proof.Machine
end

