-- ==== Sys2Proof/Machine/Codec.lean ====
section
/-! DEFINITION. The packet codec commands CONSTRUCT (R220 to R222), ENCODE (R230 to R232), DECODE (R240 to R249) and
VERIFY (R250), over any parameters, and their meanings on the machine that is modelled. -/

namespace Sys2Proof.Machine

/-- CONSTRUCT imm8 (R220): refusal first, then the length validator (R222), then the new Packet. NOW is sampled only when
a Packet is made (R221). -/
def constructWith (p : Params) (imm8 : Byte) (s : State) : State :=
  if p.intentDefined imm8 = false then s.raise .refused
  else if Config.maxPayload < s.offeredLen then s.raise .payloadTooLarge
  else
    State.finish 0x00 <| State.afterDraw
      { s with
        intent := imm8
        priority := Config.priorityNormal
        flags := p.defaultFlags
        sequence := 0x00000000
        payloadLen := s.argLen
        timestamp := s.drawnNow p
        hash := Vector.replicate 32 0x00 }

/-- The body of W before the hash: header, then payload (R230). -/
def State.writeBody (p : Params) (s : State) : State :=
  (s.writeWs p 0 (hdr (s.header p))).writeWs p Config.headerLen (s.packetPayload p)

/-- ENCODE (R230): W[0..68+N), WIRE_LEN and HASH. The digest is taken over the bytes just written. -/
def encodeWith (p : Params) (s : State) : State :=
  let n := s.payloadLen.toNat
  let h := (s.writeBody p).wireHash p n
  State.finish 0x00
    { (s.writeBody p).writeWs p (Config.headerLen + n) h.toList with
      wireLen := BitVec.ofNat 32 (Config.minPacket + n)
      hash := h }

/-- The six checks of DECODE in their order (R240 to R246, R248): the declared payload length, or the first failure. -/
def decodeChecks (p : Params) (s : State) : Except ErrorOutcome Nat :=
  if s.inputLen < Config.minPacket then .error .tooSmall
  else if Config.maxPacket < s.inputLen then .error .tooLarge
  else if s.readW p 0 ≠ p.supportedVersion then .error (.unsupportedVersion (s.readW p 0))
  else if p.intentDefined (s.readW p 17) = false then .error (.invalidIntent (s.readW p 17))
  else if Config.headerLen + s.declaredLen p + Config.hashLen ≠ s.inputLen then .error .lengthMismatch
  else if s.wireHash p (s.declaredLen p) ≠ s.carriedHash p (s.declaredLen p) then .error .invalidHash
  else .ok (s.declaredLen p)

/-- A received Packet delivered: registers from W, payload copied to P (R247). -/
def State.loadPacket (p : Params) (n : Nat) (s : State) : State :=
  (s.loadFields p n).writePs p 0 (s.readWs p Config.headerLen n)

/-- DECODE (R240): nothing is loaded unless every check passes (R204, R276). -/
def decodeWith (p : Params) (s : State) : State :=
  match decodeChecks p s with
  | .error e => s.raise e
  | .ok n => State.finish 0x00 (s.loadPacket p n)

/-- VERIFY (R250): does the Packet as it stands have the stored hash? -/
def verifyWith (p : Params) (s : State) : State :=
  s.finish (boolByte (decide (s.packetHash p = s.hash)))

/-- CONSTRUCT imm8 on the machine. -/
def execConstruct (imm8 : Byte) (s : State) : Host.Outcome State Fault Refusal :=
  .next (constructWith Config.marsh imm8 s)

/-- ENCODE on the machine. -/
def execEncode (s : State) : Host.Outcome State Fault Refusal :=
  .next (encodeWith Config.marsh s)

/-- DECODE on the machine. -/
def execDecode (s : State) : Host.Outcome State Fault Refusal :=
  .next (decodeWith Config.marsh s)

/-- VERIFY on the machine. -/
def execVerify (s : State) : Host.Outcome State Fault Refusal :=
  .next (verifyWith Config.marsh s)

end Sys2Proof.Machine
end

