-- ==== Sys2Proof/Machine/Flags.lean ====
section
/-! DEFINITION. The flag byte (R110) and the eight pure functions on it (R170). Bit 0 is the least significant bit
(log 10). MARSH has no condition codes (R43): this byte is packet data, and its functions are all the flag computations
there are. -/

namespace Sys2Proof.Machine.Flags

/-- Compression, bits 2:0; an unnamed pattern reads as None (R170, R171). -/
def getComp (f : Byte) : Byte :=
  let v := f &&& 0x07
  if v ≤ 3 then v else 0

/-- Compression replaced whole, bits 7:3 kept (R170, R172). -/
def setComp (f c : Byte) : Byte := (f &&& 0xF8) ||| c

/-- Encryption, bits 4:3; the unnamed pattern reads as None (R170, R173). -/
def getEnc (f : Byte) : Byte :=
  let v := (f &&& 0x18) >>> 3
  if v ≤ 2 then v else 0

/-- Encryption replaced whole, the other bits kept (R170, R174). -/
def setEnc (f e : Byte) : Byte := (f &&& 0xE7) ||| (e <<< 3)

/-- Fragmented, bit 5 (R170, R175). -/
def getFrag (f : Byte) : Byte := (f &&& 0x20) >>> 5

/-- Fragmented replaced, the other bits kept (R170, R176). -/
def setFrag (f b : Byte) : Byte := (f &&& 0xDF) ||| (b <<< 5)

/-- AckRequired, bit 6 (R170, R177). -/
def getAck (f : Byte) : Byte := (f &&& 0x40) >>> 6

/-- AckRequired replaced, the other bits kept (R170, R178). -/
def setAck (f b : Byte) : Byte := (f &&& 0xBF) ||| (b <<< 6)

end Sys2Proof.Machine.Flags
end

