-- ==== Sys2Proof/Machine/FlagByte.lean ====
section
/-! DEFINITION. The eight flag byte commands (R171 to R178): the pure functions of R170 applied to FLAGS. -/

namespace Sys2Proof.Machine

/-- The shared shape of the setters: an operand outside its domain is refused and FLAGS keeps its value (R122, R280);
otherwise FLAGS is written and HASH is not (R172, R320). -/
def State.updateFlags (inDomain : Bool) (f : Byte) (s : State) : State :=
  if inDomain then State.finish 0x00 { s with flags := f } else s.raise .refused

/-- GET_COMP (R171). -/
def execGetComp (s : State) : Host.Outcome State Fault Refusal :=
  .next (s.finish (Flags.getComp s.flags))

/-- SET_COMP imm8 (R172). -/
def execSetComp (imm8 : Byte) (s : State) : Host.Outcome State Fault Refusal :=
  .next (s.updateFlags (isCompOperand imm8) (Flags.setComp s.flags imm8))

/-- GET_ENC (R173). -/
def execGetEnc (s : State) : Host.Outcome State Fault Refusal :=
  .next (s.finish (Flags.getEnc s.flags))

/-- SET_ENC imm8 (R174). -/
def execSetEnc (imm8 : Byte) (s : State) : Host.Outcome State Fault Refusal :=
  .next (s.updateFlags (isEncOperand imm8) (Flags.setEnc s.flags imm8))

/-- GET_FRAG (R175). -/
def execGetFrag (s : State) : Host.Outcome State Fault Refusal :=
  .next (s.finish (Flags.getFrag s.flags))

/-- SET_FRAG imm8 (R176). -/
def execSetFrag (imm8 : Byte) (s : State) : Host.Outcome State Fault Refusal :=
  .next (s.updateFlags (isBoolOperand imm8) (Flags.setFrag s.flags imm8))

/-- GET_ACK (R177). -/
def execGetAck (s : State) : Host.Outcome State Fault Refusal :=
  .next (s.finish (Flags.getAck s.flags))

/-- SET_ACK imm8 (R178). -/
def execSetAck (imm8 : Byte) (s : State) : Host.Outcome State Fault Refusal :=
  .next (s.updateFlags (isBoolOperand imm8) (Flags.setAck s.flags imm8))

end Sys2Proof.Machine
end

