-- ==== Sys2Proof/Machine/Vocabulary.lean ====
section
/-! DEFINITION. The wire vocabulary (R140 to R149): the three `from_code` functions, and the commands CHK_INTENT, CHK_COMP
and CHK_ENC that expose them. A value is represented by its code, so `to_code` is the identity (R140). -/

namespace Sys2Proof.Machine

/-- Intent `from_code`: never a fabricated value (R141). -/
def intentFromCode (p : Params) (b : Byte) : Option Byte := if p.intentDefined b then some b else none

/-- Compression `from_code`, strict on the whole byte (R143). -/
def compFromCode (b : Byte) : Option Byte := if b ≤ 3 then some b else none

/-- EncryptionLevel `from_code`, strict on the whole byte (R145). -/
def encFromCode (b : Byte) : Option Byte := if b ≤ 2 then some b else none

/-- The shared shape of the three checks: RESULT says whether the byte has a value (R142, R144, R146, R149). -/
def State.answerCheck (v : Option Byte) (s : State) : State := s.finish (boolByte v.isSome)

/-- CHK_INTENT imm8 (R142). -/
def execChkIntent (imm8 : Byte) (s : State) : Host.Outcome State Fault Refusal :=
  .next (s.answerCheck (intentFromCode Config.marsh imm8))

/-- CHK_COMP imm8 (R144). -/
def execChkComp (imm8 : Byte) (s : State) : Host.Outcome State Fault Refusal :=
  .next (s.answerCheck (compFromCode imm8))

/-- CHK_ENC imm8 (R146). -/
def execChkEnc (imm8 : Byte) (s : State) : Host.Outcome State Fault Refusal :=
  .next (s.answerCheck (encFromCode imm8))

end Sys2Proof.Machine
end

