-- ==== Sys2Proof/Machine/Dispatch.lean ====
section
/-! DEFINITION. One arm per command of R121. -/

namespace Sys2Proof.Machine

/-- What a command does: one atomic step of MARSH (R10, R34). -/
def exec (i : Instr) (s : State) : Host.Outcome State Fault Refusal :=
  match i with
  -- wire vocabulary
  | .chkIntent imm8 => Sys2Proof.Machine.execChkIntent imm8 s
  | .chkComp imm8 => Sys2Proof.Machine.execChkComp imm8 s
  | .chkEnc imm8 => Sys2Proof.Machine.execChkEnc imm8 s
  -- flag byte
  | .getComp => Sys2Proof.Machine.execGetComp s
  | .setComp imm8 => Sys2Proof.Machine.execSetComp imm8 s
  | .getEnc => Sys2Proof.Machine.execGetEnc s
  | .setEnc imm8 => Sys2Proof.Machine.execSetEnc imm8 s
  | .getFrag => Sys2Proof.Machine.execGetFrag s
  | .setFrag imm8 => Sys2Proof.Machine.execSetFrag imm8 s
  | .getAck => Sys2Proof.Machine.execGetAck s
  | .setAck imm8 => Sys2Proof.Machine.execSetAck imm8 s
  -- packet codec
  | .construct imm8 => Sys2Proof.Machine.execConstruct imm8 s
  | .encode => Sys2Proof.Machine.execEncode s
  | .decode => Sys2Proof.Machine.execDecode s
  | .verify => Sys2Proof.Machine.execVerify s

end Sys2Proof.Machine
end

