-- ==== Sys2Proof/Machine/HostPort.lean ====
section
/-! DEFINITION. The host's actions on MARSH (R10, R42): register accesses, single-byte buffer accesses (R64), the command
port (R34) and reset (R310). -/

namespace Sys2Proof.Machine

/-- A word written to CMD: the command it encodes runs to completion; a word that encodes none is refused with STATUS 0xFF
(R34, R123, R280). -/
def issueCommand (w : Half) (s : State) : Host.Outcome State Fault Refusal :=
  match decode w with
  | .ok i => exec i s
  | .error _ => .next (s.raise .refused)

/-- A host register write (R42). A number that names no register is refused (R47), as is a value of the wrong width. -/
def hostWriteReg (number : Nat) (v : RegValue) (s : State) : Host.Outcome State Fault Refusal :=
  match Reg.ofNumber number, v with
  | none, _ => .refused (.noSuchRegister number)
  | some .cmd, .half w => issueCommand w s
  | some r, v =>
    match s.storeReg Config.marsh r v with
    | some t => .next t
    | none => .refused (.wrongWidth number)

/-- What a read hands to the host (log 16). -/
def State.answer (v : RegValue) (s : State) : State := { s with answers := v :: s.answers }

/-- A host register read changes nothing of MARSH (R42); a read of NOW draws one sample (R41). -/
def hostReadReg (number : Nat) (s : State) : Host.Outcome State Fault Refusal :=
  match Reg.ofNumber number with
  | none => .refused (.noSuchRegister number)
  | some .now => .next (s.afterDraw.answer (s.readReg Config.marsh .now))
  | some r => .next (s.answer (s.readReg Config.marsh r))

/-- A host write of one byte of W (R64, R67). -/
def hostWriteWire (a : Nat) (b : Byte) (s : State) : Host.Outcome State Fault Refusal :=
  if a < Config.wireSize then .next (s.writeWs Config.marsh a [b]) else .refused (.noSuchWireAddress a)

/-- A host read of one byte of W (R64, R67, R68). -/
def hostReadWire (a : Nat) (s : State) : Host.Outcome State Fault Refusal :=
  if a < Config.wireSize then .next (s.answer (.byte (s.readW Config.marsh a))) else .refused (.noSuchWireAddress a)

/-- A host write of one byte of P (R64, R67). -/
def hostWritePayload (a : Nat) (b : Byte) (s : State) : Host.Outcome State Fault Refusal :=
  if a < Config.payloadSize then .next (s.writePs Config.marsh a [b]) else .refused (.noSuchPayloadAddress a)

/-- A host read of one byte of P (R64, R67, R68). -/
def hostReadPayload (a : Nat) (s : State) : Host.Outcome State Fault Refusal :=
  if a < Config.payloadSize then .next (s.answer (.byte (s.readP Config.marsh a)))
  else .refused (.noSuchPayloadAddress a)

/-- The reset input (R310): every register takes its value of R46 and the memories are unspecified afresh (log 8). What is
not MARSH's stays: the draws of NOW so far, and the host's own plan and answers (log 19). -/
def hostReset (s : State) : Host.Outcome State Fault Refusal :=
  .next { State.reset with
    resets := s.resets + 1
    nowDraws := s.nowDraws
    pending := s.pending
    answers := s.answers }

/-- One action of the host. -/
def hostAct (act : HostAction) (s : State) : Host.Outcome State Fault Refusal :=
  match act with
  | .writeReg n v => hostWriteReg n v s
  | .readReg n => hostReadReg n s
  | .writeWire a b => hostWriteWire a b s
  | .readWire a => hostReadWire a s
  | .writePayload a b => hostWritePayload a b s
  | .readPayload a => hostReadPayload a s
  | .reset => hostReset s

/-- The state once the host's oldest pending action is taken up. -/
def State.takeUp (rest : List HostAction) (s : State) : State := { s with pending := rest }

/-- MARSH and its host, one action on: the oldest pending action happens (R73); with none pending, MARSH is idle (R295). -/
def nextAction (s : State) : Host.Outcome State Fault Refusal :=
  match s.pending with
  | [] => .next s
  | act :: rest => hostAct act (s.takeUp rest)

end Sys2Proof.Machine
end

