-- ==== Sys2Proof/Machine/Step.lean ====
section
/-! DEFINITION. The step of the machine, and where a command word stands for the step to take it up. -/

namespace Sys2Proof.Machine

/-- One step: the host's oldest pending action, or nothing (R10, R40, R73). -/
def step (s : State) : Host.Outcome State Fault Refusal := nextAction s

/-- The state in which the host's next action is to write the command word `w` (its low `nbits` bits) to CMD: MARSH has no
program counter and no instruction memory (R40, R76), so this is where the next command comes from (log 1). -/
def State.withFetchWord (s : State) (nbits w : Nat) : State :=
  { s with pending := HostAction.command (BitVec.ofNat 16 (w % 2 ^ nbits)) :: s.pending }

end Sys2Proof.Machine
end

