-- ==== Sys2Proof/Safety.lean ====
section
/-! DEFINITION. What claims are stated in terms of: the well-formed states (R30, R35 to R37, R60), equality of Packets
(R32), the named hypotheses on a digest (R206), sequences of commands, and runs that are never refused (R280). -/

namespace Sys2Proof.Machine

/-- The STATUS values of R35: "No other value ever appears". -/
def statusCodes : List Byte := [0x00, 0x01, 0x02, 0x03, 0x04, 0x05, 0x06, 0x07, 0xFF]

/-- The invariant of the machine with parameters `p`. -/
structure State.Inv (p : Params) (s : State) : Prop where
  /-- INTENT is a defined code (R23, R30). -/
  intent_defined : p.intentDefined s.intent = true
  /-- PAYLOAD_LEN is at most MAX_PAYLOAD (R27, R30). -/
  payload_len_le : s.payloadLen.toNat ≤ Config.maxPayload
  /-- STATUS holds a code of R35. -/
  status_known : s.status ∈ statusCodes
  /-- ERR_BYTE is 0x00 except after the two errors that carry a byte (R36). -/
  err_byte_zero : s.status ≠ 0x03 → s.status ≠ 0x04 → s.errByte = 0x00
  /-- After UnsupportedVersion, ERR_BYTE is not the supported version (R36, R243). -/
  err_version : s.status = 0x03 → s.errByte ≠ p.supportedVersion
  /-- After InvalidIntent, ERR_BYTE is not a defined intent (R36, R244). -/
  err_intent : s.status = 0x04 → p.intentDefined s.errByte = false
  /-- RESULT is 0x00 after every error and refusal (R37). -/
  result_zero : s.status ≠ 0x00 → s.result = 0x00
  /-- RESULT is an enumeration code or a boolean (R37). -/
  result_le : s.result ≤ 3
  /-- W is in canonical form and inside its 10,485,828 addresses (R60, R66). -/
  wire_wf : Memory.wf (s.wireFill p) Config.wireSize s.wire
  /-- P is in canonical form and inside its 10,485,760 addresses (R60, R66). -/
  payload_wf : Memory.wf (s.payloadFill p) Config.payloadSize s.payload

/-- Packet equality (R32): the nine packet registers and the payloads; VERSION is one constant (R21). -/
structure SamePacket (p : Params) (s t : State) : Prop where
  session_id : s.sessionId = t.sessionId
  intent : s.intent = t.intent
  priority : s.priority = t.priority
  flags : s.flags = t.flags
  sequence : s.sequence = t.sequence
  payload_len : s.payloadLen = t.payloadLen
  timestamp : s.timestamp = t.timestamp
  hash : s.hash = t.hash
  payload : s.packetPayload p = t.packetPayload p

/-- H_SENS (R206): two inputs of one length that differ at exactly one position have different digests. A hypothesis a
claim may take, never a fact of the machine. -/
def HSens (d : Bytes → Hash) : Prop :=
  ∀ (before after : Bytes) (x y : Byte), x ≠ y → d (before ++ x :: after) ≠ d (before ++ y :: after)

/-- H_INJ (R206), on the input lengths MARSH forms. False of every function. -/
def HInj (d : Bytes → Hash) : Prop :=
  ∀ m m' : Bytes, 36 ≤ m.length → m.length ≤ 10485796 → 36 ≤ m'.length → m'.length ≤ 10485796 → m ≠ m' → d m ≠ d m'

/-- H_PRE (R206) for one input and one 32-byte value. -/
def HPre (d : Bytes → Hash) (m : Bytes) (h : Hash) : Prop := d m ≠ h

/-- Commands executed one after another with no host action between. -/
def execAll : List Instr → State → Host.Outcome State Fault Refusal
  | [], s => .next s
  | i :: is, s =>
    match exec i s with
    | .next t => execAll is t
    | .fault r => .fault r
    | .refused r => .refused r

/-- A state after which no command has been refused: what a claim takes as premise (R280). -/
def State.notRefused (s : State) : Prop := s.status ≠ 0xFF

end Sys2Proof.Machine
end

