-- ==== Sys2Proof/Certificates/Slice0/Obligations.lean ====
section
/-! DEFINITION. The statements about the machine, each a rule of the spec or a consequence of rules. In all of them the
machine is the modelled one: `Config.marsh`, whose parameters are constants with no body.

`s.withFetchWord 16 w` is `s` with the host about to write the command word `w` to CMD (R34). -/

open Sys2Proof Sys2Proof.Machine

/-! ### Reset and the invariant -/

/-- R46, R310: what reset leaves in every register and memory. The unspecified bytes of W and P are the model's free values
of log 8, the sample of NOW that of log 7. -/
def Obligations.ResetStateHoldsTheTableOfValues : Prop :=
  State.reset.readReg Config.marsh .version = .byte Config.supportedVersion ∧
  State.reset.sessionId = Vector.replicate 16 0x00 ∧
  State.reset.intent = 0x01 ∧
  State.reset.priority = 0x80 ∧
  State.reset.flags = Config.defaultFlags ∧
  State.reset.sequence = 0 ∧
  State.reset.payloadLen = 0 ∧
  State.reset.timestamp = 0 ∧
  State.reset.hash = Vector.replicate 32 0x00 ∧
  State.reset.readReg Config.marsh .cmd = .half 0x0000 ∧
  State.reset.status = 0x00 ∧
  State.reset.errByte = 0x00 ∧
  State.reset.result = 0x00 ∧
  State.reset.argLen = 0 ∧
  State.reset.wireLen = 0 ∧
  State.reset.readReg Config.marsh .now = .double (Config.now State.reset.nowDraws) ∧
  (∀ a, State.reset.readW Config.marsh a = Config.wireFill State.reset.resets a) ∧
  (∀ a, State.reset.readP Config.marsh a = Config.payloadFill State.reset.resets a)

/-- R310: the reset input, at any point between two host actions, gives every register its value of R46. That the memories
become unspecified afresh and that the host's plan and answers stay is the model's choice (log 8, log 19). -/
def Obligations.ResetActionRestoresEveryRegister : Prop :=
  ∀ (s : State) (rest : List HostAction), s.pending = .reset :: rest →
    step s = .next { State.reset with
      resets := s.resets + 1, nowDraws := s.nowDraws, pending := rest, answers := s.answers }

/-- R30, R46: the invariant holds after reset. -/
def Obligations.ResetStateSatisfiesTheInvariant : Prop :=
  State.reset.Inv Config.marsh

/-- R30, R35, R36, R37, R60: every step keeps the invariant: a defined INTENT, PAYLOAD_LEN within bounds, a STATUS of the
table, ERR_BYTE and RESULT as the outcome allows, and both memories canonical and inside their addresses. -/
def Obligations.EveryStepKeepsTheInvariant : Prop :=
  ∀ s t : State, s.Inv Config.marsh → step s = .next t → t.Inv Config.marsh

/-! ### The command word and the step -/

/-- R120, R121: no bit of an encoding is dropped: every command, at every operand byte, is what its word decodes to. -/
def Obligations.DecodeOfEncodeIsTheCommand : Prop :=
  ∀ i : Instr, decode (encode i) = .ok i

/-- R120, R121: a word that decodes is the word its command encodes to: no two words mean one command. -/
def Obligations.EncodeOfDecodeIsTheWord : Prop :=
  ∀ (w : Half) (i : Instr), decode w = .ok i → encode i = w

/-- R123: exactly the words with an opcode outside the fifteen, and those of the seven operand-less commands with a non-zero
imm8, encode no command; such a word is refused: STATUS 0xFF, ERR_BYTE and RESULT 0x00, nothing else. -/
def Obligations.ReservedWordsAreRefused : Prop :=
  ∀ (s : State) (op imm8 : Byte),
    let reserved :=
      op ∉ [0x10, 0x11, 0x12, 0x20, 0x21, 0x22, 0x23, 0x24, 0x25, 0x26, 0x27, 0x30, 0x31, 0x32, 0x33] ∨
        (op ∈ [0x20, 0x22, 0x24, 0x26, 0x31, 0x32, 0x33] ∧ imm8 ≠ 0x00)
    (reserved ↔ ∀ i, decode (BitVec.ofNat 16 (op.toNat * 256 + imm8.toNat)) ≠ .ok i) ∧
    (reserved → step (s.withFetchWord 16 (op.toNat * 256 + imm8.toNat)) =
      .next { s with status := 0xFF, errByte := 0x00, result := 0x00 })

/-- R121, R125: the words the spec writes for its fifteen commands decode to them (a sanity statement). -/
def Obligations.WordsOfTheSpecDecode : Prop :=
  decode 0x1001 = .ok (.chkIntent 0x01) ∧ decode 0x1104 = .ok (.chkComp 0x04) ∧ decode 0x1202 = .ok (.chkEnc 0x02) ∧
  decode 0x2000 = .ok .getComp ∧ decode 0x2102 = .ok (.setComp 0x02) ∧ decode 0x2200 = .ok .getEnc ∧
  decode 0x2302 = .ok (.setEnc 0x02) ∧ decode 0x2400 = .ok .getFrag ∧ decode 0x2501 = .ok (.setFrag 0x01) ∧
  decode 0x2600 = .ok .getAck ∧ decode 0x2701 = .ok (.setAck 0x01) ∧ decode 0x3001 = .ok (.construct 0x01) ∧
  decode 0x3100 = .ok .encode ∧ decode 0x3200 = .ok .decode ∧ decode 0x3300 = .ok .verify

/-- R34: a host write of a word to CMD runs the command the word encodes, to completion, as one step; the step takes that
write off the host's plan and does nothing else. CMD stores nothing and reads 0x0000. -/
def Obligations.StepRunsTheCommandWrittenToCmd : Prop :=
  ∀ (s : State) (rest : List HostAction) (w : Half) (i : Instr),
    s.pending = .writeReg 0x10 (.half w) :: rest → decode w = .ok i →
      step s = exec i { s with pending := rest } ∧ s.readReg Config.marsh .cmd = .half 0x0000

/-- R295: MARSH is idle between commands: with no action of the host pending, a step leaves the state as it is. -/
def Obligations.IdleMachineStaysAsItIs : Prop :=
  ∀ s : State, s.pending = [] → step s = .next s

/-! ### Wire vocabulary -/

/-- R142: CHK_INTENT answers whether the byte is in INTENT_DEFINED, for every byte, and Ping is. -/
def Obligations.ChkIntentAnswersMembership : Prop :=
  ∀ (s : State) (imm8 : Byte),
    exec (.chkIntent imm8) s = .next
      { s with result := if Config.marsh.intentDefined imm8 then 0x01 else 0x00, errByte := 0x00, status := 0x00 } ∧
    step (s.withFetchWord 16 (0x1000 + imm8.toNat)) = exec (.chkIntent imm8) s ∧
    Config.marsh.intentDefined 0x01 = true

/-- R144, R146: CHK_COMP and CHK_ENC test the whole byte against the codes 0 to 3 and 0 to 2. -/
def Obligations.ChkCompAndChkEncTestTheWholeByte : Prop :=
  ∀ (s : State) (imm8 : Byte),
    exec (.chkComp imm8) s = .next
      { s with result := if imm8.toNat ≤ 3 then 0x01 else 0x00, errByte := 0x00, status := 0x00 } ∧
    step (s.withFetchWord 16 (0x1100 + imm8.toNat)) = exec (.chkComp imm8) s ∧
    exec (.chkEnc imm8) s = .next
      { s with result := if imm8.toNat ≤ 2 then 0x01 else 0x00, errByte := 0x00, status := 0x00 } ∧
    step (s.withFetchWord 16 (0x1200 + imm8.toNat)) = exec (.chkEnc imm8) s

/-- R149: on every byte each `from_code` gives the byte itself or none, the byte itself exactly on the defined set, and the
CHK command of the type answers 1 exactly there. -/
def Obligations.FromCodeIsPartialIdentityAndChkAnswersIt : Prop :=
  ∀ (s : State) (b : Byte),
    intentFromCode Config.marsh b = (if Config.marsh.intentDefined b then some b else none) ∧
    compFromCode b = (if b ∈ [0, 1, 2, 3] then some b else none) ∧
    encFromCode b = (if b ∈ [0, 1, 2] then some b else none) ∧
    (∃ t, exec (.chkIntent b) s = .next t ∧ (t.result = 1 ↔ (intentFromCode Config.marsh b).isSome)) ∧
    (∃ t, exec (.chkComp b) s = .next t ∧ (t.result = 1 ↔ (compFromCode b).isSome)) ∧
    (∃ t, exec (.chkEnc b) s = .next t ∧ (t.result = 1 ↔ (encFromCode b).isSome))

/-! ### Flag byte -/

/-- R171, R173: GET_COMP and GET_ENC answer their own bits of FLAGS, an unnamed pattern as None, and change nothing but the
outcome registers; with a non-zero imm8 their words are refused. -/
def Obligations.EnumGettersReadTheirOwnBitsWithFallback : Prop :=
  ∀ s : State,
    exec .getComp s = .next
      { s with result := if s.flags &&& 0x07 ≤ 3 then s.flags &&& 0x07 else 0x00, errByte := 0x00, status := 0x00 } ∧
    step (s.withFetchWord 16 0x2000) = exec .getComp s ∧
    exec .getEnc s = .next
      { s with
        result := if (s.flags &&& 0x18) >>> 3 ≤ 2 then (s.flags &&& 0x18) >>> 3 else 0x00
        errByte := 0x00, status := 0x00 } ∧
    step (s.withFetchWord 16 0x2200) = exec .getEnc s ∧
    ∀ k : Nat, 0 < k → k < 256 →
      step (s.withFetchWord 16 (0x2000 + k)) = .next { s with status := 0xFF, errByte := 0x00, result := 0x00 } ∧
      step (s.withFetchWord 16 (0x2200 + k)) = .next { s with status := 0xFF, errByte := 0x00, result := 0x00 }

/-- R175, R177: GET_FRAG and GET_ACK answer bits 5 and 6 of FLAGS and change nothing but the outcome registers; with a
non-zero imm8 their words are refused. -/
def Obligations.BooleanGettersReadTheirOwnBit : Prop :=
  ∀ s : State,
    exec .getFrag s = .next
      { s with result := if s.flags.getLsbD 5 then 0x01 else 0x00, errByte := 0x00, status := 0x00 } ∧
    step (s.withFetchWord 16 0x2400) = exec .getFrag s ∧
    exec .getAck s = .next
      { s with result := if s.flags.getLsbD 6 then 0x01 else 0x00, errByte := 0x00, status := 0x00 } ∧
    step (s.withFetchWord 16 0x2600) = exec .getAck s ∧
    ∀ k : Nat, 0 < k → k < 256 →
      step (s.withFetchWord 16 (0x2400 + k)) = .next { s with status := 0xFF, errByte := 0x00, result := 0x00 } ∧
      step (s.withFetchWord 16 (0x2600 + k)) = .next { s with status := 0xFF, errByte := 0x00, result := 0x00 }

/-- R172, R174: SET_COMP and SET_ENC replace their own bits of FLAGS whole and keep the others; a code outside the
enumeration is refused and FLAGS keeps its value. HASH is not touched. -/
def Obligations.EnumSettersWriteTheirOwnBitsOnly : Prop :=
  ∀ (s : State) (imm8 : Byte),
    (imm8.toNat ≤ 3 → exec (.setComp imm8) s = .next
      { s with flags := (s.flags &&& 0xF8) ||| imm8, result := 0x00, errByte := 0x00, status := 0x00 }) ∧
    (3 < imm8.toNat → exec (.setComp imm8) s = .next { s with status := 0xFF, errByte := 0x00, result := 0x00 }) ∧
    step (s.withFetchWord 16 (0x2100 + imm8.toNat)) = exec (.setComp imm8) s ∧
    (imm8.toNat ≤ 2 → exec (.setEnc imm8) s = .next
      { s with flags := (s.flags &&& 0xE7) ||| (imm8 <<< 3), result := 0x00, errByte := 0x00, status := 0x00 }) ∧
    (2 < imm8.toNat → exec (.setEnc imm8) s = .next { s with status := 0xFF, errByte := 0x00, result := 0x00 }) ∧
    step (s.withFetchWord 16 (0x2300 + imm8.toNat)) = exec (.setEnc imm8) s

/-- R176, R178: SET_FRAG and SET_ACK write bits 5 and 6 of FLAGS only; an operand that is no boolean is refused. -/
def Obligations.BooleanSettersWriteTheirOwnBitOnly : Prop :=
  ∀ (s : State) (imm8 : Byte),
    (imm8.toNat ≤ 1 → exec (.setFrag imm8) s = .next
      { s with flags := (s.flags &&& 0xDF) ||| (imm8 <<< 5), result := 0x00, errByte := 0x00, status := 0x00 }) ∧
    (1 < imm8.toNat → exec (.setFrag imm8) s = .next { s with status := 0xFF, errByte := 0x00, result := 0x00 }) ∧
    step (s.withFetchWord 16 (0x2500 + imm8.toNat)) = exec (.setFrag imm8) s ∧
    (imm8.toNat ≤ 1 → exec (.setAck imm8) s = .next
      { s with flags := (s.flags &&& 0xBF) ||| (imm8 <<< 6), result := 0x00, errByte := 0x00, status := 0x00 }) ∧
    (1 < imm8.toNat → exec (.setAck imm8) s = .next { s with status := 0xFF, errByte := 0x00, result := 0x00 }) ∧
    step (s.withFetchWord 16 (0x2700 + imm8.toNat)) = exec (.setAck imm8) s

/-- R180 (1) to (5): read-back, non-interference, idempotence, last write wins and commutation of the flag functions. -/
def Obligations.FlagFunctionsAreIndependentFields : Prop :=
  ∀ f c c' e e' b b' : Byte, c ≤ 3 → c' ≤ 3 → e ≤ 2 → e' ≤ 2 → b ≤ 1 → b' ≤ 1 →
    (Flags.getComp (Flags.setComp f c) = c ∧ Flags.getEnc (Flags.setEnc f e) = e ∧
      Flags.getFrag (Flags.setFrag f b) = b ∧ Flags.getAck (Flags.setAck f b) = b) ∧
    (Flags.setComp f c &&& 0xF8 = f &&& 0xF8 ∧ Flags.setEnc f e &&& 0xE7 = f &&& 0xE7 ∧
      Flags.setFrag f b &&& 0xDF = f &&& 0xDF ∧ Flags.setAck f b &&& 0xBF = f &&& 0xBF) ∧
    (Flags.getEnc (Flags.setComp f c) = Flags.getEnc f ∧ Flags.getFrag (Flags.setComp f c) = Flags.getFrag f ∧
      Flags.getAck (Flags.setComp f c) = Flags.getAck f ∧ Flags.getComp (Flags.setEnc f e) = Flags.getComp f ∧
      Flags.getFrag (Flags.setEnc f e) = Flags.getFrag f ∧ Flags.getAck (Flags.setEnc f e) = Flags.getAck f ∧
      Flags.getComp (Flags.setFrag f b) = Flags.getComp f ∧ Flags.getEnc (Flags.setFrag f b) = Flags.getEnc f ∧
      Flags.getAck (Flags.setFrag f b) = Flags.getAck f ∧ Flags.getComp (Flags.setAck f b) = Flags.getComp f ∧
      Flags.getEnc (Flags.setAck f b) = Flags.getEnc f ∧ Flags.getFrag (Flags.setAck f b) = Flags.getFrag f) ∧
    (Flags.setComp (Flags.setComp f c) c' = Flags.setComp f c' ∧ Flags.setEnc (Flags.setEnc f e) e' = Flags.setEnc f e' ∧
      Flags.setFrag (Flags.setFrag f b) b' = Flags.setFrag f b' ∧
      Flags.setAck (Flags.setAck f b) b' = Flags.setAck f b') ∧
    (Flags.setComp (Flags.setEnc f e) c = Flags.setEnc (Flags.setComp f c) e ∧
      Flags.setComp (Flags.setFrag f b) c = Flags.setFrag (Flags.setComp f c) b ∧
      Flags.setComp (Flags.setAck f b) c = Flags.setAck (Flags.setComp f c) b ∧
      Flags.setEnc (Flags.setFrag f b) e = Flags.setFrag (Flags.setEnc f e) b ∧
      Flags.setEnc (Flags.setAck f b) e = Flags.setAck (Flags.setEnc f e) b ∧
      Flags.setFrag (Flags.setAck f b') b = Flags.setAck (Flags.setFrag f b) b')

/-- R181: from any state, the four setters in any order, with operands in their domains, leave one and the same flag byte,
with bit 7 as it was, and STATUS 0x00. -/
def Obligations.SettersInAnyOrderGiveOneFlagByte : Prop :=
  ∀ (s : State) (c e b1 b2 : Byte) (is : List Instr), c ≤ 3 → e ≤ 2 → b1 ≤ 1 → b2 ≤ 1 →
    is.Perm [.setComp c, .setEnc e, .setFrag b1, .setAck b2] →
      execAll is s = .next
        { s with
          flags := (s.flags &&& 0x80) ||| (b2 <<< 6) ||| (b1 <<< 5) ||| (e <<< 3) ||| c
          result := 0x00, errByte := 0x00, status := 0x00 }

/-- R179: bit 7 of FLAGS is never interpreted and never changed by a vocabulary or flag byte command: with the bit inverted
before, such a command does the same and leaves the bit inverted. -/
def Obligations.ReservedFlagBitIsNeverInterpreted : Prop :=
  ∀ (s : State) (b : Byte) (i : Instr),
    i ∈ [Instr.chkIntent b, .chkComp b, .chkEnc b, .getComp, .setComp b, .getEnc, .setEnc b, .getFrag, .setFrag b,
      .getAck, .setAck b] →
    ∃ t, exec i s = .next t ∧ t.flags.getLsbD 7 = s.flags.getLsbD 7 ∧
      exec i { s with flags := s.flags ^^^ 0x80 } = .next { t with flags := t.flags ^^^ 0x80 }

/-! ### Packet codec -/

/-- R220, R222: CONSTRUCT, on every state and operand: an undefined intent code is refused before the length is looked at;
a length above 10,485,760 is PayloadTooLarge; otherwise the new Packet stands, with one sample of NOW, and SESSION_ID,
ARG_LEN, WIRE_LEN, W and P untouched. -/
def Obligations.ConstructMakesThePacketOrChangesNothing : Prop :=
  ∀ (s : State) (imm8 : Byte),
    exec (.construct imm8) s = .next
      (if Config.marsh.intentDefined imm8 then
        if 10485760 < s.argLen.toNat then { s with status := 0x07, errByte := 0x00, result := 0x00 }
        else
          { s with
            intent := imm8, priority := 0x80, flags := Config.defaultFlags, sequence := 0, payloadLen := s.argLen
            timestamp := Config.now s.nowDraws, nowDraws := s.nowDraws + 1, hash := Vector.replicate 32 0x00
            result := 0x00, errByte := 0x00, status := 0x00 }
      else { s with status := 0xFF, errByte := 0x00, result := 0x00 }) ∧
    step (s.withFetchWord 16 (0x3000 + imm8.toNat)) = exec (.construct imm8) s

/-- R230: ENCODE, on every state: W holds the header fields in wire order, the payload and the digest of both from address 0
on, and is unchanged above; WIRE_LEN and HASH are written and no other register or memory is. -/
def Obligations.EncodeWritesHeaderPayloadAndDigest : Prop :=
  ∀ s : State,
    let m : Bytes := [Config.supportedVersion] ++ s.sessionId.toList ++ [s.intent] ++ [s.priority] ++ [s.flags] ++
      be4 s.sequence ++ be4 s.payloadLen ++ be8 s.timestamp ++
      (List.range s.payloadLen.toNat).map (fun a => s.readP Config.marsh a)
    let b : Bytes := m ++ (Config.digest m).toList
    (∃ t, exec .encode s = .next t ∧
      t = { s with
        wire := t.wire, wireLen := BitVec.ofNat 32 (68 + s.payloadLen.toNat), hash := Config.digest m
        result := 0x00, errByte := 0x00, status := 0x00 } ∧
      b.length = 68 + s.payloadLen.toNat ∧
      ∀ a, t.readW Config.marsh a = (b[a]?).getD (s.readW Config.marsh a)) ∧
    step (s.withFetchWord 16 0x3100) = exec .encode s

/-- R231, R232: in every state that meets the invariant ENCODE ends with STATUS 0x00 and WIRE_LEN exactly 68 + PAYLOAD_LEN,
between 68 and 10,485,828. -/
def Obligations.EncodeNeverFailsAndSizesExactly : Prop :=
  ∀ s : State, s.Inv Config.marsh →
    ∃ t, exec .encode s = .next t ∧ t.status = 0x00 ∧ t.wireLen.toNat = 68 + t.payloadLen.toNat ∧
      68 ≤ t.wireLen.toNat ∧ t.wireLen.toNat ≤ 10485828

/-- R241, R242: the two length checks, decided by WIRE_LEN alone. -/
def Obligations.DecodeChecksTheLengthFirst : Prop :=
  ∀ s : State,
    (s.wireLen.toNat < 68 → exec .decode s = .next { s with status := 0x01, errByte := 0x00, result := 0x00 }) ∧
    (10485828 < s.wireLen.toNat → exec .decode s = .next { s with status := 0x02, errByte := 0x00, result := 0x00 })

/-- R243, R253: the version gate, whatever the remaining bytes are. -/
def Obligations.DecodeRejectsAnotherVersion : Prop :=
  ∀ s : State, 68 ≤ s.wireLen.toNat → s.wireLen.toNat ≤ 10485828 →
    s.readW Config.marsh 0 ≠ Config.supportedVersion →
      exec .decode s = .next { s with status := 0x03, errByte := s.readW Config.marsh 0, result := 0x00 }

/-- R244, R254: the intent gate: of the buffers that pass checks 1 to 3, exactly those whose byte 17 is not a defined code
end with InvalidIntent, which carries that byte. -/
def Obligations.DecodeRejectsAnUndefinedIntent : Prop :=
  ∀ s : State, 68 ≤ s.wireLen.toNat → s.wireLen.toNat ≤ 10485828 →
    s.readW Config.marsh 0 = Config.supportedVersion →
      ∃ t, exec .decode s = .next t ∧
        (t.status = 0x04 ↔ Config.marsh.intentDefined (s.readW Config.marsh 17) = false) ∧
        (Config.marsh.intentDefined (s.readW Config.marsh 17) = false →
          t = { s with status := 0x04, errByte := s.readW Config.marsh 17, result := 0x00 })

/-- R245: check 5, on natural numbers: a declared length that does not account for the whole input. -/
def Obligations.DecodeRejectsALengthMismatch : Prop :=
  ∀ s : State, 68 ≤ s.wireLen.toNat → s.wireLen.toNat ≤ 10485828 →
    s.readW Config.marsh 0 = Config.supportedVersion →
    Config.marsh.intentDefined (s.readW Config.marsh 17) = true →
    36 + ((s.readW Config.marsh 24).toNat * 16777216 + (s.readW Config.marsh 25).toNat * 65536 +
      (s.readW Config.marsh 26).toNat * 256 + (s.readW Config.marsh 27).toNat) + 32 ≠ s.wireLen.toNat →
      exec .decode s = .next { s with status := 0x05, errByte := 0x00, result := 0x00 }

/-- R246: check 6: the digest of the bytes before the hash field against the trailing 32 bytes. -/
def Obligations.DecodeRejectsAWrongHash : Prop :=
  ∀ (s : State) (n : Nat), s.wireLen.toNat = 68 + n → s.wireLen.toNat ≤ 10485828 →
    s.readW Config.marsh 0 = Config.supportedVersion →
    Config.marsh.intentDefined (s.readW Config.marsh 17) = true →
    unbe ((List.range 4).map (fun i => s.readW Config.marsh (24 + i))) = n →
    (Config.digest ((List.range (36 + n)).map (fun a => s.readW Config.marsh a))).toList ≠
      (List.range 32).map (fun i => s.readW Config.marsh (36 + n + i)) →
      exec .decode s = .next { s with status := 0x06, errByte := 0x00, result := 0x00 }

/-- R247: when all six checks pass, the Packet is loaded raw from W, the payload copied to P from address 0 on, and P above
it, W, WIRE_LEN and ARG_LEN are unchanged; VERIFY then answers 1. -/
def Obligations.DecodeLoadsThePacketRaw : Prop :=
  ∀ (s : State) (n : Nat), s.wireLen.toNat = 68 + n → s.wireLen.toNat ≤ 10485828 →
    s.readW Config.marsh 0 = Config.supportedVersion →
    Config.marsh.intentDefined (s.readW Config.marsh 17) = true →
    unbe ((List.range 4).map (fun i => s.readW Config.marsh (24 + i))) = n →
    (Config.digest ((List.range (36 + n)).map (fun a => s.readW Config.marsh a))).toList =
      (List.range 32).map (fun i => s.readW Config.marsh (36 + n + i)) →
      ∃ t, exec .decode s = .next t ∧
        t = { s with
          sessionId := Vector.ofFn (fun i : Fin 16 => s.readW Config.marsh (1 + i))
          intent := s.readW Config.marsh 17
          priority := s.readW Config.marsh 18
          flags := s.readW Config.marsh 19
          sequence := BitVec.ofNat 32 (unbe ((List.range 4).map (fun i => s.readW Config.marsh (20 + i))))
          payloadLen := BitVec.ofNat 32 n
          timestamp := BitVec.ofNat 64 (unbe ((List.range 8).map (fun i => s.readW Config.marsh (28 + i))))
          hash := Vector.ofFn (fun i : Fin 32 => s.readW Config.marsh (36 + n + i))
          payload := t.payload
          result := 0x00, errByte := 0x00, status := 0x00 } ∧
        (∀ a, t.readP Config.marsh a = if a < n then s.readW Config.marsh (36 + a) else s.readP Config.marsh a) ∧
        ∃ u, exec .verify t = .next u ∧ u.result = 0x01

/-- R248: when several failures apply, the earliest of the six in their order is the one reported. -/
def Obligations.DecodeReportsTheEarliestFailure : Prop :=
  ∀ s : State,
    let n := unbe ((List.range 4).map (fun i => s.readW Config.marsh (24 + i)))
    ∃ t, exec .decode s = .next t ∧ t.status =
      if s.wireLen.toNat < 68 then 0x01
      else if 10485828 < s.wireLen.toNat then 0x02
      else if s.readW Config.marsh 0 ≠ Config.supportedVersion then 0x03
      else if Config.marsh.intentDefined (s.readW Config.marsh 17) = false then 0x04
      else if 36 + n + 32 ≠ s.wireLen.toNat then 0x05
      else if (Config.digest ((List.range (36 + n)).map (fun a => s.readW Config.marsh a))).toList ≠
        (List.range 32).map (fun i => s.readW Config.marsh (36 + n + i)) then 0x06
      else 0x00

/-- R66, R249, R325: DECODE never reads W at or above WIRE_LEN: on a wire buffer that agrees below WIRE_LEN it does the
same. -/
def Obligations.DecodeNeverReadsAtOrAboveWireLen : Prop :=
  ∀ (s : State) (m : Memory),
    (∀ a, a < s.wireLen.toNat → ({ s with wire := m } : State).readW Config.marsh a = s.readW Config.marsh a) →
      ∃ t, exec .decode s = .next t ∧ exec .decode { s with wire := m } = .next { t with wire := m }

/-- R64, R240: a DECODE that fails at check 1 or 2 has read no byte of W, at check 3 only W[0], at check 4 only W[0] and
W[17], at check 5 only those and W[24..28): with the same bytes there, any other wire buffer gives the same failure. -/
def Obligations.FailingDecodeReadsOnlyTheBytesOfItsChecks : Prop :=
  ∀ (s : State) (m : Memory), ∃ t, exec .decode s = .next t ∧
    let same := fun a => ({ s with wire := m } : State).readW Config.marsh a = s.readW Config.marsh a
    (t.status = 0x01 ∨ t.status = 0x02 → exec .decode { s with wire := m } = .next { t with wire := m }) ∧
    (t.status = 0x03 → same 0 → exec .decode { s with wire := m } = .next { t with wire := m }) ∧
    (t.status = 0x04 → same 0 → same 17 → exec .decode { s with wire := m } = .next { t with wire := m }) ∧
    (t.status = 0x05 → same 0 → same 17 → same 24 → same 25 → same 26 → same 27 →
      exec .decode { s with wire := m } = .next { t with wire := m })

/-- R250: VERIFY, on every state: RESULT says whether the digest of the Packet as it stands is HASH; nothing but the outcome
registers is written. -/
def Obligations.VerifyComparesTheDigestWithTheStoredHash : Prop :=
  ∀ s : State,
    let m : Bytes := [Config.supportedVersion] ++ s.sessionId.toList ++ [s.intent] ++ [s.priority] ++ [s.flags] ++
      be4 s.sequence ++ be4 s.payloadLen ++ be8 s.timestamp ++
      (List.range s.payloadLen.toNat).map (fun a => s.readP Config.marsh a)
    exec .verify s = .next
      { s with result := if Config.digest m = s.hash then 0x01 else 0x00, errByte := 0x00, status := 0x00 } ∧
    step (s.withFetchWord 16 0x3300) = exec .verify s

/-! ### Properties of the codec -/

/-- R251: from every state that meets the invariant, ENCODE followed by DECODE ends with STATUS 0x00 and leaves the Packet,
hash and payload included, as it stood after the ENCODE. Between the two, the host may have written anything but W and
WIRE_LEN: whatever the packet registers and P hold when DECODE begins, the Packet comes back from the wire. -/
def Obligations.DecodeAfterEncodeGivesThePacketBack : Prop :=
  ∀ s : State, s.Inv Config.marsh →
    ∃ t, exec .encode s = .next t ∧
      ∀ t' : State, t'.wire = t.wire → t'.wireLen = t.wireLen → t'.resets = t.resets →
        ∃ u, exec .decode t' = .next u ∧ u.status = 0x00 ∧ SamePacket Config.marsh u t ∧
          ∀ a, a < t.payloadLen.toNat → u.readP Config.marsh a = t.readP Config.marsh a

/-- R256: after a successful DECODE, ENCODE leaves every byte of W, WIRE_LEN and HASH as they are. -/
def Obligations.EncodeAfterDecodeChangesNoByteOfTheWire : Prop :=
  ∀ s t : State, exec .decode s = .next t → t.status = 0x00 →
    ∃ u, exec .encode t = .next u ∧ (∀ a, u.readW Config.marsh a = t.readW Config.marsh a) ∧
      u.wireLen = t.wireLen ∧ u.hash = t.hash

/-- R257: VERIFY answers 1 immediately after an ENCODE and immediately after a successful DECODE. -/
def Obligations.VerifyHoldsAfterEncodeAndAfterDecode : Prop :=
  (∀ s : State, ∃ t u, exec .encode s = .next t ∧ exec .verify t = .next u ∧ u.result = 0x01) ∧
  (∀ s t : State, exec .decode s = .next t → t.status = 0x00 → ∃ u, exec .verify t = .next u ∧ u.result = 0x01)

/-- R207: an encoding altered only in its last 32 bytes fails check 6, with no hypothesis on DIGEST. -/
def Obligations.AlteredHashFieldIsAlwaysRejected : Prop :=
  ∀ (s t : State) (m : Memory), s.Inv Config.marsh → exec .encode s = .next t →
    (∀ a, a < 36 + s.payloadLen.toNat →
      ({ t with wire := m } : State).readW Config.marsh a = t.readW Config.marsh a) →
    (∃ a, 36 + s.payloadLen.toNat ≤ a ∧ a < 68 + s.payloadLen.toNat ∧
      ({ t with wire := m } : State).readW Config.marsh a ≠ t.readW Config.marsh a) →
      exec .decode { t with wire := m } = .next { t with wire := m, status := 0x06, errByte := 0x00, result := 0x00 }

/-- R252, with no hypothesis on DIGEST: what DECODE says of an encoding in which one byte has another value: the version and
length rows, the hash row, the intent row, and for every other row InvalidHash or, where DIGEST collides, success. -/
def Obligations.OneAlteredByteIsRejectedUnlessTheDigestCollides : Prop :=
  ∀ (s t : State) (k : Nat) (x : Byte), s.Inv Config.marsh → exec .encode s = .next t →
    k < 68 + s.payloadLen.toNat → x ≠ t.readW Config.marsh k →
    let v := t.writeWs Config.marsh k [x]
    let digestStatus : Byte :=
      if Config.digest ((List.range (36 + s.payloadLen.toNat)).map (fun a => v.readW Config.marsh a)) = t.hash then 0x00
      else 0x06
    ∃ u, exec .decode v = .next u ∧
      (k = 0 → u.status = 0x03 ∧ u.errByte = x) ∧
      (k = 17 → u.status = (if Config.marsh.intentDefined x then digestStatus else 0x04) ∧
        u.errByte = if Config.marsh.intentDefined x then 0x00 else x) ∧
      (24 ≤ k → k < 28 → u.status = 0x05) ∧
      (36 + s.payloadLen.toNat ≤ k → u.status = 0x06) ∧
      (k < 36 + s.payloadLen.toNat → k ≠ 0 → k ≠ 17 → ¬(24 ≤ k ∧ k < 28) → u.status = digestStatus)

/-- R252, for the commands over any parameters, of which the machine's own ENCODE and DECODE are one case: an encoding with
one byte altered is rejected with the error of its row; the rows that rest on the named hypothesis H_SENS of R206 state both
what it gives and what is left without it. -/
def Obligations.OneAlteredByteIsRejectedUnderSensitivity : Prop :=
  (∀ s : State, exec .encode s = .next (encodeWith Config.marsh s) ∧
    exec .decode s = .next (decodeWith Config.marsh s)) ∧
  ∀ (p : Params) (s : State) (k : Nat) (x : Byte), s.Inv p →
    k < 68 + s.payloadLen.toNat → x ≠ (encodeWith p s).readW p k →
    let u := decodeWith p ((encodeWith p s).writeWs p k [x])
    (k = 0 → u.status = 0x03 ∧ u.errByte = x) ∧
    (k = 17 → p.intentDefined x = false → u.status = 0x04 ∧ u.errByte = x) ∧
    (24 ≤ k → k < 28 → u.status = 0x05 ∧ u.errByte = 0x00) ∧
    (36 + s.payloadLen.toNat ≤ k → u.status = 0x06 ∧ u.errByte = 0x00) ∧
    (k < 36 + s.payloadLen.toNat → k ≠ 0 → (k = 17 → p.intentDefined x = true) → ¬(24 ≤ k ∧ k < 28) →
      u.errByte = 0x00 ∧ (u.status = 0x06 ∨ u.status = 0x00) ∧ (HSens p.digest → u.status = 0x06))

/-- R31: the payload is the first PAYLOAD_LEN bytes of P; no command reads P above them: with any other bytes there, every
command does the same to the registers and to W, and all but DECODE leave P as they find it. A DECODE that fails leaves P as
it finds it too; one that ends well leaves the same bytes below the PAYLOAD_LEN it loads, and each P its own bytes above. -/
def Obligations.NoCommandReadsPayloadBeyondItsLength : Prop :=
  ∀ (s : State) (m : Memory) (i : Instr),
    let s' : State := { s with payload := m }
    (∀ a, a < s.payloadLen.toNat → s'.readP Config.marsh a = s.readP Config.marsh a) →
      ∃ t t', exec i s = .next t ∧ exec i s' = .next t' ∧ t' = { t with payload := t'.payload } ∧
        (i ≠ .decode ∨ t.status ≠ 0x00 → t.payload = s.payload ∧ t'.payload = m) ∧
        (i = .decode → t.status = 0x00 →
          (∀ a, a < t.payloadLen.toNat → t'.readP Config.marsh a = t.readP Config.marsh a) ∧
          (∀ a, t.payloadLen.toNat ≤ a → t.readP Config.marsh a = s.readP Config.marsh a ∧
            t'.readP Config.marsh a = s'.readP Config.marsh a))

/-- R255: the source's concrete scenario: SESSION_ID zero, ARG_LEN 0, CONSTRUCT Ping, ENCODE, DECODE, VERIFY. -/
def Obligations.ConcreteScenarioOfTheSource : Prop :=
  ∀ s : State, s.sessionId = Vector.replicate 16 0x00 → s.argLen = 0 →
    ∃ t u v w, exec (.construct 0x01) s = .next t ∧ exec .encode t = .next u ∧ exec .decode u = .next v ∧
      exec .verify v = .next w ∧ u.wireLen = 68 ∧
      (List.range 36).map (fun a => u.readW Config.marsh a) =
        [Config.supportedVersion] ++ List.replicate 16 0x00 ++ [0x01, 0x80, Config.defaultFlags] ++
          List.replicate 8 0x00 ++ be8 (Config.now s.nowDraws) ∧
      (List.range 32).map (fun a => u.readW Config.marsh (36 + a)) =
        (Config.digest ((List.range 36).map (fun a => u.readW Config.marsh a))).toList ∧
      v.status = 0x00 ∧ v.intent = 0x01 ∧ v.payloadLen = 0 ∧ w.result = 0x01

/-! ### The wire format -/

/-- R95: `be_4` and `be_8` put the most significant byte first, and `unbe` is the inverse. -/
def Obligations.BigEndianIntegersAndTheirInverse : Prop :=
  (∀ (v : Word) (i : Nat), i < 4 → ((be4 v)[i]?).map BitVec.toNat = some (v.toNat / 256 ^ (3 - i) % 256)) ∧
  (∀ (v : Double) (i : Nat), i < 8 → ((be8 v)[i]?).map BitVec.toNat = some (v.toNat / 256 ^ (7 - i) % 256)) ∧
  (∀ v : Word, unbe (be4 v) = v.toNat) ∧ (∀ v : Double, unbe (be8 v) = v.toNat) ∧
  (∀ s : Bytes, s.length = 4 → be4 (BitVec.ofNat 32 (unbe s)) = s) ∧
  (∀ s : Bytes, s.length = 8 → be8 (BitVec.ofNat 64 (unbe s)) = s) ∧
  be4 10485760 = [0x00, 0xA0, 0x00, 0x00] ∧
  be8 1700000000000 = [0x00, 0x00, 0x01, 0x8B, 0xCF, 0xE5, 0x68, 0x00]

/-- R94: `hdr` is injective; the fields extracted from a serialized packet are the ones it was made of; and the fields
extracted from any byte sequence whose declared length accounts for it serialize to that sequence again. -/
def Obligations.HeaderFieldsAreRecoveredFromTheBytes : Prop :=
  (∀ h h' : Header, hdr h = hdr h' → h = h') ∧
  (∀ (ver : Byte) (sid : SessionId) (intent prio flags : Byte) (seq n : Word) (ts : Double) (payload : Bytes) (hash : Hash),
    payload.length = n.toNat →
    let b := hdr (ver, sid, intent, prio, flags, seq, n, ts) ++ payload ++ hash.toList
    b.length = 36 + n.toNat + 32 ∧ b[0]? = some ver ∧ (b.drop 1).take 16 = sid.toList ∧ b[17]? = some intent ∧
      b[18]? = some prio ∧ b[19]? = some flags ∧ unbe ((b.drop 20).take 4) = seq.toNat ∧
      unbe ((b.drop 24).take 4) = n.toNat ∧ unbe ((b.drop 28).take 8) = ts.toNat ∧
      (b.drop 36).take n.toNat = payload ∧ b.drop (36 + n.toNat) = hash.toList) ∧
  (∀ (b : Bytes) (ver intent prio flags : Byte) (sid : SessionId) (n : Nat),
    b[0]? = some ver → (b.drop 1).take 16 = sid.toList → b[17]? = some intent → b[18]? = some prio → b[19]? = some flags →
    unbe ((b.drop 24).take 4) = n → b.length = 36 + n + 32 →
      hdr (ver, sid, intent, prio, flags, BitVec.ofNat 32 (unbe ((b.drop 20).take 4)), BitVec.ofNat 32 n,
        BitVec.ofNat 64 (unbe ((b.drop 28).take 8))) ++ (b.drop 36).take n ++ b.drop (36 + n) = b)

/-! ### Rules about every command -/

/-- R20, R27, R29, R38, R39, R202, R320: which command can change which register: SESSION_ID only DECODE; INTENT, PRIORITY,
SEQUENCE, PAYLOAD_LEN and TIMESTAMP only CONSTRUCT and DECODE; FLAGS these and the four SET commands; HASH only CONSTRUCT,
ENCODE and DECODE; WIRE_LEN only ENCODE; ARG_LEN none; NOW is sampled by CONSTRUCT alone. -/
def Obligations.CommandsChangeOnlyTheirOwnRegisters : Prop :=
  ∀ (i : Instr) (s : State), ∃ t, exec i s = .next t ∧
    let constructs := ∃ c, i = .construct c
    let sets := ∃ b, i = .setComp b ∨ i = .setEnc b ∨ i = .setFrag b ∨ i = .setAck b
    (i ≠ .decode → t.sessionId = s.sessionId) ∧
    (i ≠ .decode → ¬constructs → t.intent = s.intent ∧ t.priority = s.priority ∧ t.sequence = s.sequence ∧
      t.payloadLen = s.payloadLen ∧ t.timestamp = s.timestamp) ∧
    (i ≠ .decode → ¬constructs → ¬sets → t.flags = s.flags) ∧
    (i ≠ .decode → ¬constructs → i ≠ .encode → t.hash = s.hash) ∧
    (i ≠ .encode → t.wireLen = s.wireLen) ∧
    t.argLen = s.argLen ∧
    (¬constructs → t.nowDraws = s.nowDraws) ∧
    t.resets = s.resets ∧ t.pending = s.pending ∧ t.answers = s.answers

/-- R64: which command writes which memory: W only ENCODE, and only W[0..68+N); P only DECODE, and only P[0..n) with n the
PAYLOAD_LEN it loads. -/
def Obligations.CommandsWriteOnlyTheirOwnBytes : Prop :=
  ∀ (i : Instr) (s : State), ∃ t, exec i s = .next t ∧
    (i ≠ .encode → ∀ a, t.readW Config.marsh a = s.readW Config.marsh a) ∧
    (∀ a, 68 + s.payloadLen.toNat ≤ a → t.readW Config.marsh a = s.readW Config.marsh a) ∧
    (i ≠ .decode → ∀ a, t.readP Config.marsh a = s.readP Config.marsh a) ∧
    (i = .decode → ∀ a, t.payloadLen.toNat ≤ a → t.readP Config.marsh a = s.readP Config.marsh a)

/-- R276: errors are precise: whatever command ends with a STATUS other than 0x00, the state is the one before it with new
STATUS, ERR_BYTE and RESULT, RESULT being 0x00. -/
def Obligations.ErrorsLeaveTheRestOfTheStateAlone : Prop :=
  ∀ (i : Instr) (s : State), ∃ t, exec i s = .next t ∧
    (t.status ≠ 0x00 → t = { s with status := t.status, errByte := t.errByte, result := 0x00 })

/-- R43, R277, R324: no command reads the outcome registers and every command overwrites all three. -/
def Obligations.CommandsIgnoreTheOutcomeBefore : Prop :=
  ∀ (i : Instr) (s : State) (a b c : Byte),
    exec i { s with status := a, errByte := b, result := c } = exec i s

/-- R122, R280: a command is refused exactly when its operand is outside its domain, and then nothing but the outcome
registers changes. -/
def Obligations.CommandsAreRefusedExactlyOutsideTheirDomain : Prop :=
  ∀ (i : Instr) (s : State), ∃ t, exec i s = .next t ∧
    (t.status = 0xFF ↔ i.wellFormed Config.marsh = false) ∧
    (i.wellFormed Config.marsh = false → t = { s with status := 0xFF, errByte := 0x00, result := 0x00 })

/-- R249, R271: which errors which command can raise: the CHK, GET and SET commands, ENCODE and VERIFY none; CONSTRUCT only
PayloadTooLarge; DECODE the six of its checks and never PayloadTooLarge, and a successful DECODE has PAYLOAD_LEN =
WIRE_LEN - 68, at most 10,485,760. -/
def Obligations.OnlyConstructAndDecodeRaiseErrors : Prop :=
  ∀ (i : Instr) (s : State), ∃ t, exec i s = .next t ∧
    ((∃ c, i = .construct c) → t.status = 0x00 ∨ t.status = 0x07 ∨ t.status = 0xFF) ∧
    (i = .decode → t.status.toNat ≤ 6 ∧
      (t.status = 0x00 → t.payloadLen.toNat + 68 = s.wireLen.toNat ∧ t.payloadLen.toNat ≤ 10485760)) ∧
    (i ≠ .decode → (¬∃ c, i = .construct c) → t.status = 0x00 ∨ t.status = 0xFF)

/-! ### The host's own accesses -/

/-- R42, with R20, R21, R33, R34 and R41: what a host read of each register returns, and that it changes nothing of MARSH;
a read of NOW draws one sample. -/
def Obligations.HostReadsReturnTheRegisters : Prop :=
  ∀ (s : State) (rest : List HostAction),
    (∀ e ∈ [((0x00 : Nat), RegValue.byte Config.supportedVersion), (0x01, .session s.sessionId), (0x02, .byte s.intent),
        (0x03, .byte s.priority), (0x04, .byte s.flags), (0x05, .word s.sequence), (0x06, .word s.payloadLen),
        (0x07, .double s.timestamp), (0x08, .digest s.hash), (0x10, .half 0x0000), (0x11, .byte s.status),
        (0x12, .byte s.errByte), (0x13, .byte s.result), (0x14, .word s.argLen), (0x15, .word s.wireLen)],
      step { s with pending := .readReg e.1 :: rest } = .next { s with pending := rest, answers := e.2 :: s.answers }) ∧
    step { s with pending := .readReg 0x16 :: rest } = .next
      { s with pending := rest, nowDraws := s.nowDraws + 1, answers := .double (Config.now s.nowDraws) :: s.answers }

/-- R42, with R20 to R29, R35 to R39 and R41: what a host write of each register but CMD leaves: a writable register takes
the value, INTENT only a defined code, a read-only register nothing. No host write changes the outcome registers. -/
def Obligations.HostWritesStoreOrAreIgnored : Prop :=
  ∀ (s : State) (rest : List HostAction) (sid : SessionId) (h : Hash) (b : Byte) (w : Word) (d : Double),
    (∀ e ∈ [((0x01 : Nat), RegValue.session sid, { s with sessionId := sid }),
        (0x02, .byte b, { s with intent := if Config.marsh.intentDefined b then b else s.intent }),
        (0x03, .byte b, { s with priority := b }), (0x04, .byte b, { s with flags := b }),
        (0x05, .word w, { s with sequence := w }), (0x07, .double d, { s with timestamp := d }),
        (0x08, .digest h, { s with hash := h }), (0x14, .word w, { s with argLen := w }),
        (0x15, .word w, { s with wireLen := w }),
        (0x00, .byte b, s), (0x06, .word w, s), (0x11, .byte b, s), (0x12, .byte b, s), (0x13, .byte b, s),
        (0x16, .double d, s)],
      step { s with pending := .writeReg e.1 e.2.1 :: rest } = .next { e.2.2 with pending := rest })

/-- R47, R67: the register numbers and buffer addresses that do not exist are refused, for reads and for writes. -/
def Obligations.AccessesThatDoNotExistAreRefused : Prop :=
  ∀ (s : State) (rest : List HostAction) (n a : Nat) (v : RegValue) (b : Byte),
    ((9 ≤ n ∧ n ≤ 15) ∨ 0x17 ≤ n →
      step { s with pending := .readReg n :: rest } = .refused (.noSuchRegister n) ∧
      step { s with pending := .writeReg n v :: rest } = .refused (.noSuchRegister n)) ∧
    (10485827 < a →
      step { s with pending := .readWire a :: rest } = .refused (.noSuchWireAddress a) ∧
      step { s with pending := .writeWire a b :: rest } = .refused (.noSuchWireAddress a)) ∧
    (10485759 < a →
      step { s with pending := .readPayload a :: rest } = .refused (.noSuchPayloadAddress a) ∧
      step { s with pending := .writePayload a b :: rest } = .refused (.noSuchPayloadAddress a))

/-- R42, R47, R67: a step is refused exactly when the host's next action is not one the host has; every other step goes on.
(That a value of another width than the register's is no host action is the model's reading of R42, log 15.) -/
def Obligations.StepsAreRefusedExactlyOnIllFormedActions : Prop :=
  ∀ (s : State) (act : HostAction) (rest : List HostAction), s.pending = act :: rest →
    (act.wellFormed = true → ∃ t, step s = .next t) ∧ (act.wellFormed = false → ∃ r, step s = .refused r)

/-- R60, R68, R73: a host byte write changes that byte of that buffer and nothing else; a host byte read returns the byte
and changes nothing of MARSH. -/
def Obligations.HostByteAccessesReadAndWriteOneByte : Prop :=
  ∀ (s : State) (rest : List HostAction) (a : Nat) (b : Byte),
    (a < 10485828 →
      (∃ t, step { s with pending := .writeWire a b :: rest } = .next t ∧ t = { s with pending := rest, wire := t.wire } ∧
        ∀ x, t.readW Config.marsh x = if x = a then b else s.readW Config.marsh x) ∧
      step { s with pending := .readWire a :: rest } = .next
        { s with pending := rest, answers := .byte (s.readW Config.marsh a) :: s.answers }) ∧
    (a < 10485760 →
      (∃ t, step { s with pending := .writePayload a b :: rest } = .next t ∧
        t = { s with pending := rest, payload := t.payload } ∧
        ∀ x, t.readP Config.marsh x = if x = a then b else s.readP Config.marsh x) ∧
      step { s with pending := .readPayload a :: rest } = .next
        { s with pending := rest, answers := .byte (s.readP Config.marsh a) :: s.answers })

/-- R42: only a command changes STATUS, ERR_BYTE or RESULT: after a step of the host that is neither a write of CMD nor
reset, the three are as they were. -/
def Obligations.OnlyCommandsAndResetChangeTheOutcome : Prop :=
  ∀ (s t : State) (act : HostAction) (rest : List HostAction), s.pending = act :: rest → act ≠ .reset →
    (∀ v, act ≠ .writeReg 0x10 v) → step s = .next t →
      t.status = s.status ∧ t.errByte = s.errByte ∧ t.result = s.result
end

