-- ==== Sys2Proof/Laws/State.lean ====
section
/-! SUPPORT. One lemma per field per state update, each true by definition, so that no later proof unfolds an update. -/

namespace Sys2Proof.Machine

/-! ### The parameters of the machine and the constants of R3 -/

@[simp] theorem marsh_supportedVersion : Config.marsh.supportedVersion = Config.supportedVersion := rfl
@[simp] theorem marsh_defaultFlags : Config.marsh.defaultFlags = Config.defaultFlags := rfl
@[simp] theorem marsh_digest : Config.marsh.digest = Config.digest := rfl
@[simp] theorem marsh_now : Config.marsh.now = Config.now := rfl
@[simp] theorem marsh_wireFill : Config.marsh.wireFill = Config.wireFill := rfl
@[simp] theorem marsh_payloadFill : Config.marsh.payloadFill = Config.payloadFill := rfl
@[simp] theorem intentDefined_ping (p : Params) : p.intentDefined 0x01 = true := rfl
@[simp] theorem headerLen_eq : Config.headerLen = 36 := rfl
@[simp] theorem hashLen_eq : Config.hashLen = 32 := rfl
@[simp] theorem maxPayload_eq : Config.maxPayload = 10485760 := rfl
@[simp] theorem minPacket_eq : Config.minPacket = 68 := rfl
@[simp] theorem maxPacket_eq : Config.maxPacket = 10485828 := rfl

/-! ### `State.raise` -/

@[simp] theorem State.raise_sessionId (e : ErrorOutcome) (s : State) : (s.raise e).sessionId = s.sessionId := rfl
@[simp] theorem State.raise_intent (e : ErrorOutcome) (s : State) : (s.raise e).intent = s.intent := rfl
@[simp] theorem State.raise_priority (e : ErrorOutcome) (s : State) : (s.raise e).priority = s.priority := rfl
@[simp] theorem State.raise_flags (e : ErrorOutcome) (s : State) : (s.raise e).flags = s.flags := rfl
@[simp] theorem State.raise_sequence (e : ErrorOutcome) (s : State) : (s.raise e).sequence = s.sequence := rfl
@[simp] theorem State.raise_payloadLen (e : ErrorOutcome) (s : State) : (s.raise e).payloadLen = s.payloadLen := rfl
@[simp] theorem State.raise_timestamp (e : ErrorOutcome) (s : State) : (s.raise e).timestamp = s.timestamp := rfl
@[simp] theorem State.raise_hash (e : ErrorOutcome) (s : State) : (s.raise e).hash = s.hash := rfl
@[simp] theorem State.raise_status (e : ErrorOutcome) (s : State) : (s.raise e).status = e.code := rfl
@[simp] theorem State.raise_errByte (e : ErrorOutcome) (s : State) : (s.raise e).errByte = e.info := rfl
@[simp] theorem State.raise_result (e : ErrorOutcome) (s : State) : (s.raise e).result = 0x00 := rfl
@[simp] theorem State.raise_argLen (e : ErrorOutcome) (s : State) : (s.raise e).argLen = s.argLen := rfl
@[simp] theorem State.raise_wireLen (e : ErrorOutcome) (s : State) : (s.raise e).wireLen = s.wireLen := rfl
@[simp] theorem State.raise_wire (e : ErrorOutcome) (s : State) : (s.raise e).wire = s.wire := rfl
@[simp] theorem State.raise_payload (e : ErrorOutcome) (s : State) : (s.raise e).payload = s.payload := rfl
@[simp] theorem State.raise_resets (e : ErrorOutcome) (s : State) : (s.raise e).resets = s.resets := rfl
@[simp] theorem State.raise_nowDraws (e : ErrorOutcome) (s : State) : (s.raise e).nowDraws = s.nowDraws := rfl
@[simp] theorem State.raise_pending (e : ErrorOutcome) (s : State) : (s.raise e).pending = s.pending := rfl
@[simp] theorem State.raise_answers (e : ErrorOutcome) (s : State) : (s.raise e).answers = s.answers := rfl

/-! ### `State.finish` -/

@[simp] theorem State.finish_sessionId (r : Byte) (s : State) : (s.finish r).sessionId = s.sessionId := rfl
@[simp] theorem State.finish_intent (r : Byte) (s : State) : (s.finish r).intent = s.intent := rfl
@[simp] theorem State.finish_priority (r : Byte) (s : State) : (s.finish r).priority = s.priority := rfl
@[simp] theorem State.finish_flags (r : Byte) (s : State) : (s.finish r).flags = s.flags := rfl
@[simp] theorem State.finish_sequence (r : Byte) (s : State) : (s.finish r).sequence = s.sequence := rfl
@[simp] theorem State.finish_payloadLen (r : Byte) (s : State) : (s.finish r).payloadLen = s.payloadLen := rfl
@[simp] theorem State.finish_timestamp (r : Byte) (s : State) : (s.finish r).timestamp = s.timestamp := rfl
@[simp] theorem State.finish_hash (r : Byte) (s : State) : (s.finish r).hash = s.hash := rfl
@[simp] theorem State.finish_status (r : Byte) (s : State) : (s.finish r).status = 0x00 := rfl
@[simp] theorem State.finish_errByte (r : Byte) (s : State) : (s.finish r).errByte = 0x00 := rfl
@[simp] theorem State.finish_result (r : Byte) (s : State) : (s.finish r).result = r := rfl
@[simp] theorem State.finish_argLen (r : Byte) (s : State) : (s.finish r).argLen = s.argLen := rfl
@[simp] theorem State.finish_wireLen (r : Byte) (s : State) : (s.finish r).wireLen = s.wireLen := rfl
@[simp] theorem State.finish_wire (r : Byte) (s : State) : (s.finish r).wire = s.wire := rfl
@[simp] theorem State.finish_payload (r : Byte) (s : State) : (s.finish r).payload = s.payload := rfl
@[simp] theorem State.finish_resets (r : Byte) (s : State) : (s.finish r).resets = s.resets := rfl
@[simp] theorem State.finish_nowDraws (r : Byte) (s : State) : (s.finish r).nowDraws = s.nowDraws := rfl
@[simp] theorem State.finish_pending (r : Byte) (s : State) : (s.finish r).pending = s.pending := rfl
@[simp] theorem State.finish_answers (r : Byte) (s : State) : (s.finish r).answers = s.answers := rfl

/-! ### `State.writeWs` -/

@[simp] theorem State.writeWs_sessionId (p : Params) (a : Nat) (v : Bytes) (s : State) : (s.writeWs p a v).sessionId = s.sessionId := rfl
@[simp] theorem State.writeWs_intent (p : Params) (a : Nat) (v : Bytes) (s : State) : (s.writeWs p a v).intent = s.intent := rfl
@[simp] theorem State.writeWs_priority (p : Params) (a : Nat) (v : Bytes) (s : State) : (s.writeWs p a v).priority = s.priority := rfl
@[simp] theorem State.writeWs_flags (p : Params) (a : Nat) (v : Bytes) (s : State) : (s.writeWs p a v).flags = s.flags := rfl
@[simp] theorem State.writeWs_sequence (p : Params) (a : Nat) (v : Bytes) (s : State) : (s.writeWs p a v).sequence = s.sequence := rfl
@[simp] theorem State.writeWs_payloadLen (p : Params) (a : Nat) (v : Bytes) (s : State) : (s.writeWs p a v).payloadLen = s.payloadLen := rfl
@[simp] theorem State.writeWs_timestamp (p : Params) (a : Nat) (v : Bytes) (s : State) : (s.writeWs p a v).timestamp = s.timestamp := rfl
@[simp] theorem State.writeWs_hash (p : Params) (a : Nat) (v : Bytes) (s : State) : (s.writeWs p a v).hash = s.hash := rfl
@[simp] theorem State.writeWs_status (p : Params) (a : Nat) (v : Bytes) (s : State) : (s.writeWs p a v).status = s.status := rfl
@[simp] theorem State.writeWs_errByte (p : Params) (a : Nat) (v : Bytes) (s : State) : (s.writeWs p a v).errByte = s.errByte := rfl
@[simp] theorem State.writeWs_result (p : Params) (a : Nat) (v : Bytes) (s : State) : (s.writeWs p a v).result = s.result := rfl
@[simp] theorem State.writeWs_argLen (p : Params) (a : Nat) (v : Bytes) (s : State) : (s.writeWs p a v).argLen = s.argLen := rfl
@[simp] theorem State.writeWs_wireLen (p : Params) (a : Nat) (v : Bytes) (s : State) : (s.writeWs p a v).wireLen = s.wireLen := rfl
@[simp] theorem State.writeWs_wire (p : Params) (a : Nat) (v : Bytes) (s : State) : (s.writeWs p a v).wire = Memory.writeBytes (s.wireFill p) v a s.wire := rfl
@[simp] theorem State.writeWs_payload (p : Params) (a : Nat) (v : Bytes) (s : State) : (s.writeWs p a v).payload = s.payload := rfl
@[simp] theorem State.writeWs_resets (p : Params) (a : Nat) (v : Bytes) (s : State) : (s.writeWs p a v).resets = s.resets := rfl
@[simp] theorem State.writeWs_nowDraws (p : Params) (a : Nat) (v : Bytes) (s : State) : (s.writeWs p a v).nowDraws = s.nowDraws := rfl
@[simp] theorem State.writeWs_pending (p : Params) (a : Nat) (v : Bytes) (s : State) : (s.writeWs p a v).pending = s.pending := rfl
@[simp] theorem State.writeWs_answers (p : Params) (a : Nat) (v : Bytes) (s : State) : (s.writeWs p a v).answers = s.answers := rfl

/-! ### `State.writePs` -/

@[simp] theorem State.writePs_sessionId (p : Params) (a : Nat) (v : Bytes) (s : State) : (s.writePs p a v).sessionId = s.sessionId := rfl
@[simp] theorem State.writePs_intent (p : Params) (a : Nat) (v : Bytes) (s : State) : (s.writePs p a v).intent = s.intent := rfl
@[simp] theorem State.writePs_priority (p : Params) (a : Nat) (v : Bytes) (s : State) : (s.writePs p a v).priority = s.priority := rfl
@[simp] theorem State.writePs_flags (p : Params) (a : Nat) (v : Bytes) (s : State) : (s.writePs p a v).flags = s.flags := rfl
@[simp] theorem State.writePs_sequence (p : Params) (a : Nat) (v : Bytes) (s : State) : (s.writePs p a v).sequence = s.sequence := rfl
@[simp] theorem State.writePs_payloadLen (p : Params) (a : Nat) (v : Bytes) (s : State) : (s.writePs p a v).payloadLen = s.payloadLen := rfl
@[simp] theorem State.writePs_timestamp (p : Params) (a : Nat) (v : Bytes) (s : State) : (s.writePs p a v).timestamp = s.timestamp := rfl
@[simp] theorem State.writePs_hash (p : Params) (a : Nat) (v : Bytes) (s : State) : (s.writePs p a v).hash = s.hash := rfl
@[simp] theorem State.writePs_status (p : Params) (a : Nat) (v : Bytes) (s : State) : (s.writePs p a v).status = s.status := rfl
@[simp] theorem State.writePs_errByte (p : Params) (a : Nat) (v : Bytes) (s : State) : (s.writePs p a v).errByte = s.errByte := rfl
@[simp] theorem State.writePs_result (p : Params) (a : Nat) (v : Bytes) (s : State) : (s.writePs p a v).result = s.result := rfl
@[simp] theorem State.writePs_argLen (p : Params) (a : Nat) (v : Bytes) (s : State) : (s.writePs p a v).argLen = s.argLen := rfl
@[simp] theorem State.writePs_wireLen (p : Params) (a : Nat) (v : Bytes) (s : State) : (s.writePs p a v).wireLen = s.wireLen := rfl
@[simp] theorem State.writePs_wire (p : Params) (a : Nat) (v : Bytes) (s : State) : (s.writePs p a v).wire = s.wire := rfl
@[simp] theorem State.writePs_payload (p : Params) (a : Nat) (v : Bytes) (s : State) : (s.writePs p a v).payload = Memory.writeBytes (s.payloadFill p) v a s.payload := rfl
@[simp] theorem State.writePs_resets (p : Params) (a : Nat) (v : Bytes) (s : State) : (s.writePs p a v).resets = s.resets := rfl
@[simp] theorem State.writePs_nowDraws (p : Params) (a : Nat) (v : Bytes) (s : State) : (s.writePs p a v).nowDraws = s.nowDraws := rfl
@[simp] theorem State.writePs_pending (p : Params) (a : Nat) (v : Bytes) (s : State) : (s.writePs p a v).pending = s.pending := rfl
@[simp] theorem State.writePs_answers (p : Params) (a : Nat) (v : Bytes) (s : State) : (s.writePs p a v).answers = s.answers := rfl

/-! ### `State.afterDraw` -/

@[simp] theorem State.afterDraw_sessionId (s : State) : (s.afterDraw).sessionId = s.sessionId := rfl
@[simp] theorem State.afterDraw_intent (s : State) : (s.afterDraw).intent = s.intent := rfl
@[simp] theorem State.afterDraw_priority (s : State) : (s.afterDraw).priority = s.priority := rfl
@[simp] theorem State.afterDraw_flags (s : State) : (s.afterDraw).flags = s.flags := rfl
@[simp] theorem State.afterDraw_sequence (s : State) : (s.afterDraw).sequence = s.sequence := rfl
@[simp] theorem State.afterDraw_payloadLen (s : State) : (s.afterDraw).payloadLen = s.payloadLen := rfl
@[simp] theorem State.afterDraw_timestamp (s : State) : (s.afterDraw).timestamp = s.timestamp := rfl
@[simp] theorem State.afterDraw_hash (s : State) : (s.afterDraw).hash = s.hash := rfl
@[simp] theorem State.afterDraw_status (s : State) : (s.afterDraw).status = s.status := rfl
@[simp] theorem State.afterDraw_errByte (s : State) : (s.afterDraw).errByte = s.errByte := rfl
@[simp] theorem State.afterDraw_result (s : State) : (s.afterDraw).result = s.result := rfl
@[simp] theorem State.afterDraw_argLen (s : State) : (s.afterDraw).argLen = s.argLen := rfl
@[simp] theorem State.afterDraw_wireLen (s : State) : (s.afterDraw).wireLen = s.wireLen := rfl
@[simp] theorem State.afterDraw_wire (s : State) : (s.afterDraw).wire = s.wire := rfl
@[simp] theorem State.afterDraw_payload (s : State) : (s.afterDraw).payload = s.payload := rfl
@[simp] theorem State.afterDraw_resets (s : State) : (s.afterDraw).resets = s.resets := rfl
@[simp] theorem State.afterDraw_nowDraws (s : State) : (s.afterDraw).nowDraws = s.nowDraws + 1 := rfl
@[simp] theorem State.afterDraw_pending (s : State) : (s.afterDraw).pending = s.pending := rfl
@[simp] theorem State.afterDraw_answers (s : State) : (s.afterDraw).answers = s.answers := rfl

/-! ### `State.answer` -/

@[simp] theorem State.answer_sessionId (v : RegValue) (s : State) : (s.answer v).sessionId = s.sessionId := rfl
@[simp] theorem State.answer_intent (v : RegValue) (s : State) : (s.answer v).intent = s.intent := rfl
@[simp] theorem State.answer_priority (v : RegValue) (s : State) : (s.answer v).priority = s.priority := rfl
@[simp] theorem State.answer_flags (v : RegValue) (s : State) : (s.answer v).flags = s.flags := rfl
@[simp] theorem State.answer_sequence (v : RegValue) (s : State) : (s.answer v).sequence = s.sequence := rfl
@[simp] theorem State.answer_payloadLen (v : RegValue) (s : State) : (s.answer v).payloadLen = s.payloadLen := rfl
@[simp] theorem State.answer_timestamp (v : RegValue) (s : State) : (s.answer v).timestamp = s.timestamp := rfl
@[simp] theorem State.answer_hash (v : RegValue) (s : State) : (s.answer v).hash = s.hash := rfl
@[simp] theorem State.answer_status (v : RegValue) (s : State) : (s.answer v).status = s.status := rfl
@[simp] theorem State.answer_errByte (v : RegValue) (s : State) : (s.answer v).errByte = s.errByte := rfl
@[simp] theorem State.answer_result (v : RegValue) (s : State) : (s.answer v).result = s.result := rfl
@[simp] theorem State.answer_argLen (v : RegValue) (s : State) : (s.answer v).argLen = s.argLen := rfl
@[simp] theorem State.answer_wireLen (v : RegValue) (s : State) : (s.answer v).wireLen = s.wireLen := rfl
@[simp] theorem State.answer_wire (v : RegValue) (s : State) : (s.answer v).wire = s.wire := rfl
@[simp] theorem State.answer_payload (v : RegValue) (s : State) : (s.answer v).payload = s.payload := rfl
@[simp] theorem State.answer_resets (v : RegValue) (s : State) : (s.answer v).resets = s.resets := rfl
@[simp] theorem State.answer_nowDraws (v : RegValue) (s : State) : (s.answer v).nowDraws = s.nowDraws := rfl
@[simp] theorem State.answer_pending (v : RegValue) (s : State) : (s.answer v).pending = s.pending := rfl
@[simp] theorem State.answer_answers (v : RegValue) (s : State) : (s.answer v).answers = v :: s.answers := rfl

/-! ### `State.takeUp` -/

@[simp] theorem State.takeUp_sessionId (rest : List HostAction) (s : State) : (s.takeUp rest).sessionId = s.sessionId := rfl
@[simp] theorem State.takeUp_intent (rest : List HostAction) (s : State) : (s.takeUp rest).intent = s.intent := rfl
@[simp] theorem State.takeUp_priority (rest : List HostAction) (s : State) : (s.takeUp rest).priority = s.priority := rfl
@[simp] theorem State.takeUp_flags (rest : List HostAction) (s : State) : (s.takeUp rest).flags = s.flags := rfl
@[simp] theorem State.takeUp_sequence (rest : List HostAction) (s : State) : (s.takeUp rest).sequence = s.sequence := rfl
@[simp] theorem State.takeUp_payloadLen (rest : List HostAction) (s : State) : (s.takeUp rest).payloadLen = s.payloadLen := rfl
@[simp] theorem State.takeUp_timestamp (rest : List HostAction) (s : State) : (s.takeUp rest).timestamp = s.timestamp := rfl
@[simp] theorem State.takeUp_hash (rest : List HostAction) (s : State) : (s.takeUp rest).hash = s.hash := rfl
@[simp] theorem State.takeUp_status (rest : List HostAction) (s : State) : (s.takeUp rest).status = s.status := rfl
@[simp] theorem State.takeUp_errByte (rest : List HostAction) (s : State) : (s.takeUp rest).errByte = s.errByte := rfl
@[simp] theorem State.takeUp_result (rest : List HostAction) (s : State) : (s.takeUp rest).result = s.result := rfl
@[simp] theorem State.takeUp_argLen (rest : List HostAction) (s : State) : (s.takeUp rest).argLen = s.argLen := rfl
@[simp] theorem State.takeUp_wireLen (rest : List HostAction) (s : State) : (s.takeUp rest).wireLen = s.wireLen := rfl
@[simp] theorem State.takeUp_wire (rest : List HostAction) (s : State) : (s.takeUp rest).wire = s.wire := rfl
@[simp] theorem State.takeUp_payload (rest : List HostAction) (s : State) : (s.takeUp rest).payload = s.payload := rfl
@[simp] theorem State.takeUp_resets (rest : List HostAction) (s : State) : (s.takeUp rest).resets = s.resets := rfl
@[simp] theorem State.takeUp_nowDraws (rest : List HostAction) (s : State) : (s.takeUp rest).nowDraws = s.nowDraws := rfl
@[simp] theorem State.takeUp_pending (rest : List HostAction) (s : State) : (s.takeUp rest).pending = rest := rfl
@[simp] theorem State.takeUp_answers (rest : List HostAction) (s : State) : (s.takeUp rest).answers = s.answers := rfl

/-! ### `State.loadFields` -/

@[simp] theorem State.loadFields_sessionId (p : Params) (n : Nat) (s : State) : (s.loadFields p n).sessionId = s.wireVector p 1 16 := rfl
@[simp] theorem State.loadFields_intent (p : Params) (n : Nat) (s : State) : (s.loadFields p n).intent = s.readW p 17 := rfl
@[simp] theorem State.loadFields_priority (p : Params) (n : Nat) (s : State) : (s.loadFields p n).priority = s.readW p 18 := rfl
@[simp] theorem State.loadFields_flags (p : Params) (n : Nat) (s : State) : (s.loadFields p n).flags = s.readW p 19 := rfl
@[simp] theorem State.loadFields_sequence (p : Params) (n : Nat) (s : State) : (s.loadFields p n).sequence = BitVec.ofNat 32 (unbe (s.readWs p 20 4)) := rfl
@[simp] theorem State.loadFields_payloadLen (p : Params) (n : Nat) (s : State) : (s.loadFields p n).payloadLen = BitVec.ofNat 32 n := rfl
@[simp] theorem State.loadFields_timestamp (p : Params) (n : Nat) (s : State) : (s.loadFields p n).timestamp = BitVec.ofNat 64 (unbe (s.readWs p 28 8)) := rfl
@[simp] theorem State.loadFields_hash (p : Params) (n : Nat) (s : State) : (s.loadFields p n).hash = s.wireVector p (Config.headerLen + n) 32 := rfl
@[simp] theorem State.loadFields_status (p : Params) (n : Nat) (s : State) : (s.loadFields p n).status = s.status := rfl
@[simp] theorem State.loadFields_errByte (p : Params) (n : Nat) (s : State) : (s.loadFields p n).errByte = s.errByte := rfl
@[simp] theorem State.loadFields_result (p : Params) (n : Nat) (s : State) : (s.loadFields p n).result = s.result := rfl
@[simp] theorem State.loadFields_argLen (p : Params) (n : Nat) (s : State) : (s.loadFields p n).argLen = s.argLen := rfl
@[simp] theorem State.loadFields_wireLen (p : Params) (n : Nat) (s : State) : (s.loadFields p n).wireLen = s.wireLen := rfl
@[simp] theorem State.loadFields_wire (p : Params) (n : Nat) (s : State) : (s.loadFields p n).wire = s.wire := rfl
@[simp] theorem State.loadFields_payload (p : Params) (n : Nat) (s : State) : (s.loadFields p n).payload = s.payload := rfl
@[simp] theorem State.loadFields_resets (p : Params) (n : Nat) (s : State) : (s.loadFields p n).resets = s.resets := rfl
@[simp] theorem State.loadFields_nowDraws (p : Params) (n : Nat) (s : State) : (s.loadFields p n).nowDraws = s.nowDraws := rfl
@[simp] theorem State.loadFields_pending (p : Params) (n : Nat) (s : State) : (s.loadFields p n).pending = s.pending := rfl
@[simp] theorem State.loadFields_answers (p : Params) (n : Nat) (s : State) : (s.loadFields p n).answers = s.answers := rfl

/-! ### Updates that leave a memory alone leave its reads alone -/

@[simp] theorem State.raise_readW (e : ErrorOutcome) (s : State) (q : Params) (i : Nat) : (s.raise e).readW q i = s.readW q i := rfl
@[simp] theorem State.raise_readWs (e : ErrorOutcome) (s : State) (q : Params) (i k : Nat) : (s.raise e).readWs q i k = s.readWs q i k := rfl
@[simp] theorem State.raise_readP (e : ErrorOutcome) (s : State) (q : Params) (i : Nat) : (s.raise e).readP q i = s.readP q i := rfl
@[simp] theorem State.raise_readPs (e : ErrorOutcome) (s : State) (q : Params) (i k : Nat) : (s.raise e).readPs q i k = s.readPs q i k := rfl
@[simp] theorem State.raise_wireFill (e : ErrorOutcome) (s : State) (q : Params) : (s.raise e).wireFill q = s.wireFill q := rfl
@[simp] theorem State.raise_payloadFill (e : ErrorOutcome) (s : State) (q : Params) : (s.raise e).payloadFill q = s.payloadFill q := rfl
@[simp] theorem State.finish_readW (r : Byte) (s : State) (q : Params) (i : Nat) : (s.finish r).readW q i = s.readW q i := rfl
@[simp] theorem State.finish_readWs (r : Byte) (s : State) (q : Params) (i k : Nat) : (s.finish r).readWs q i k = s.readWs q i k := rfl
@[simp] theorem State.finish_readP (r : Byte) (s : State) (q : Params) (i : Nat) : (s.finish r).readP q i = s.readP q i := rfl
@[simp] theorem State.finish_readPs (r : Byte) (s : State) (q : Params) (i k : Nat) : (s.finish r).readPs q i k = s.readPs q i k := rfl
@[simp] theorem State.finish_wireFill (r : Byte) (s : State) (q : Params) : (s.finish r).wireFill q = s.wireFill q := rfl
@[simp] theorem State.finish_payloadFill (r : Byte) (s : State) (q : Params) : (s.finish r).payloadFill q = s.payloadFill q := rfl
@[simp] theorem State.writeWs_readP (p : Params) (a : Nat) (v : Bytes) (s : State) (q : Params) (i : Nat) : (s.writeWs p a v).readP q i = s.readP q i := rfl
@[simp] theorem State.writeWs_readPs (p : Params) (a : Nat) (v : Bytes) (s : State) (q : Params) (i k : Nat) : (s.writeWs p a v).readPs q i k = s.readPs q i k := rfl
@[simp] theorem State.writeWs_wireFill (p : Params) (a : Nat) (v : Bytes) (s : State) (q : Params) : (s.writeWs p a v).wireFill q = s.wireFill q := rfl
@[simp] theorem State.writeWs_payloadFill (p : Params) (a : Nat) (v : Bytes) (s : State) (q : Params) : (s.writeWs p a v).payloadFill q = s.payloadFill q := rfl
@[simp] theorem State.writePs_readW (p : Params) (a : Nat) (v : Bytes) (s : State) (q : Params) (i : Nat) : (s.writePs p a v).readW q i = s.readW q i := rfl
@[simp] theorem State.writePs_readWs (p : Params) (a : Nat) (v : Bytes) (s : State) (q : Params) (i k : Nat) : (s.writePs p a v).readWs q i k = s.readWs q i k := rfl
@[simp] theorem State.writePs_wireFill (p : Params) (a : Nat) (v : Bytes) (s : State) (q : Params) : (s.writePs p a v).wireFill q = s.wireFill q := rfl
@[simp] theorem State.writePs_payloadFill (p : Params) (a : Nat) (v : Bytes) (s : State) (q : Params) : (s.writePs p a v).payloadFill q = s.payloadFill q := rfl
@[simp] theorem State.afterDraw_readW (s : State) (q : Params) (i : Nat) : (s.afterDraw).readW q i = s.readW q i := rfl
@[simp] theorem State.afterDraw_readWs (s : State) (q : Params) (i k : Nat) : (s.afterDraw).readWs q i k = s.readWs q i k := rfl
@[simp] theorem State.afterDraw_readP (s : State) (q : Params) (i : Nat) : (s.afterDraw).readP q i = s.readP q i := rfl
@[simp] theorem State.afterDraw_readPs (s : State) (q : Params) (i k : Nat) : (s.afterDraw).readPs q i k = s.readPs q i k := rfl
@[simp] theorem State.afterDraw_wireFill (s : State) (q : Params) : (s.afterDraw).wireFill q = s.wireFill q := rfl
@[simp] theorem State.afterDraw_payloadFill (s : State) (q : Params) : (s.afterDraw).payloadFill q = s.payloadFill q := rfl
@[simp] theorem State.answer_readW (v : RegValue) (s : State) (q : Params) (i : Nat) : (s.answer v).readW q i = s.readW q i := rfl
@[simp] theorem State.answer_readWs (v : RegValue) (s : State) (q : Params) (i k : Nat) : (s.answer v).readWs q i k = s.readWs q i k := rfl
@[simp] theorem State.answer_readP (v : RegValue) (s : State) (q : Params) (i : Nat) : (s.answer v).readP q i = s.readP q i := rfl
@[simp] theorem State.answer_readPs (v : RegValue) (s : State) (q : Params) (i k : Nat) : (s.answer v).readPs q i k = s.readPs q i k := rfl
@[simp] theorem State.answer_wireFill (v : RegValue) (s : State) (q : Params) : (s.answer v).wireFill q = s.wireFill q := rfl
@[simp] theorem State.answer_payloadFill (v : RegValue) (s : State) (q : Params) : (s.answer v).payloadFill q = s.payloadFill q := rfl
@[simp] theorem State.takeUp_readW (rest : List HostAction) (s : State) (q : Params) (i : Nat) : (s.takeUp rest).readW q i = s.readW q i := rfl
@[simp] theorem State.takeUp_readWs (rest : List HostAction) (s : State) (q : Params) (i k : Nat) : (s.takeUp rest).readWs q i k = s.readWs q i k := rfl
@[simp] theorem State.takeUp_readP (rest : List HostAction) (s : State) (q : Params) (i : Nat) : (s.takeUp rest).readP q i = s.readP q i := rfl
@[simp] theorem State.takeUp_readPs (rest : List HostAction) (s : State) (q : Params) (i k : Nat) : (s.takeUp rest).readPs q i k = s.readPs q i k := rfl
@[simp] theorem State.takeUp_wireFill (rest : List HostAction) (s : State) (q : Params) : (s.takeUp rest).wireFill q = s.wireFill q := rfl
@[simp] theorem State.takeUp_payloadFill (rest : List HostAction) (s : State) (q : Params) : (s.takeUp rest).payloadFill q = s.payloadFill q := rfl
@[simp] theorem State.loadFields_readW (p : Params) (n : Nat) (s : State) (q : Params) (i : Nat) : (s.loadFields p n).readW q i = s.readW q i := rfl
@[simp] theorem State.loadFields_readWs (p : Params) (n : Nat) (s : State) (q : Params) (i k : Nat) : (s.loadFields p n).readWs q i k = s.readWs q i k := rfl
@[simp] theorem State.loadFields_readP (p : Params) (n : Nat) (s : State) (q : Params) (i : Nat) : (s.loadFields p n).readP q i = s.readP q i := rfl
@[simp] theorem State.loadFields_readPs (p : Params) (n : Nat) (s : State) (q : Params) (i k : Nat) : (s.loadFields p n).readPs q i k = s.readPs q i k := rfl
@[simp] theorem State.loadFields_wireFill (p : Params) (n : Nat) (s : State) (q : Params) : (s.loadFields p n).wireFill q = s.wireFill q := rfl
@[simp] theorem State.loadFields_payloadFill (p : Params) (n : Nat) (s : State) (q : Params) : (s.loadFields p n).payloadFill q = s.payloadFill q := rfl

end Sys2Proof.Machine
end

