-- ==== Sys2Proof/Laws/Memory.lean ====
section
/-! SUPPORT. The laws of the byte memories: a read after a write, what a write leaves alone, and that every memory operation
keeps the canonical form (R60, R68, R73; log 9). -/

namespace Sys2Proof.Machine

variable {fill : Nat → Byte}

theorem Memory.read_erase_same (m : Memory) (a : Nat) : Memory.read fill (Memory.erase a m) a = fill a := by
  induction m with
  | nil => rfl
  | cons c m ih =>
    by_cases h : c.1 = a
    · simpa [Memory.erase, h] using ih
    · simpa [Memory.erase, h, Memory.read] using ih

theorem Memory.read_erase_other (m : Memory) {a x : Nat} (h : x ≠ a) :
    Memory.read fill (Memory.erase a m) x = Memory.read fill m x := by
  induction m with
  | nil => rfl
  | cons c m ih =>
    by_cases hc : c.1 = a
    · have : c.1 ≠ x := fun e => h (e ▸ hc)
      simpa [Memory.erase, hc, Memory.read, this, h.symm] using ih
    · by_cases hx : c.1 = x
      · simp [Memory.erase, hx, Memory.read, h]
      · simpa [Memory.erase, hc, hx, Memory.read] using ih

theorem Memory.read_insert_same (m : Memory) (a : Nat) (b : Byte) (h : ∀ c ∈ m, c.1 ≠ a) :
    Memory.read fill (Memory.insert a b m) a = b := by
  induction m with
  | nil => simp [Memory.insert, Memory.read]
  | cons c m ih =>
    have hc : c.1 ≠ a := h c (by simp)
    by_cases hlt : a < c.1
    · simp [Memory.insert, hlt, Memory.read]
    · simpa [Memory.insert, hlt, Memory.read, hc] using ih (fun d hd => h d (by simp [hd]))

theorem Memory.read_insert_other (m : Memory) {a x : Nat} (b : Byte) (h : x ≠ a) :
    Memory.read fill (Memory.insert a b m) x = Memory.read fill m x := by
  induction m with
  | nil => simp [Memory.insert, Memory.read, h.symm]
  | cons c m ih =>
    by_cases hlt : a < c.1
    · simp [Memory.insert, hlt, Memory.read, h.symm]
    · by_cases hx : c.1 = x
      · simp only [Memory.insert, if_neg hlt, Memory.read, if_pos hx]
      · simpa [Memory.insert, hlt, Memory.read, hx] using ih

theorem Memory.mem_erase {m : Memory} {a : Nat} {c : Host.Cell} :
    c ∈ Memory.erase a m ↔ c ∈ m ∧ c.1 ≠ a := by
  simp [Memory.erase]

theorem Memory.mem_insert {m : Memory} {a : Nat} {b : Byte} {c : Host.Cell} :
    c ∈ Memory.insert a b m ↔ c = (a, b) ∨ c ∈ m := by
  induction m with
  | nil => simp [Memory.insert]
  | cons d m ih =>
    by_cases hlt : a < d.1
    · simp [Memory.insert, hlt]
    · simp only [Memory.insert, hlt, if_false, List.mem_cons, ih]
      tauto

/-- A read after a write to the same address gives the byte written (R73). -/
@[simp] theorem Memory.read_write_same (m : Memory) (a : Nat) (b : Byte) :
    Memory.read fill (Memory.write fill a b m) a = b := by
  unfold Memory.write
  split
  · rename_i h
    rw [Memory.read_erase_same, h]
  · exact Memory.read_insert_same _ _ _ (fun c hc => (Memory.mem_erase.mp hc).2)

/-- A write leaves every other address alone (R73). -/
theorem Memory.read_write_other (m : Memory) {a x : Nat} (b : Byte) (h : x ≠ a) :
    Memory.read fill (Memory.write fill a b m) x = Memory.read fill m x := by
  unfold Memory.write
  split
  · exact Memory.read_erase_other m h
  · rw [Memory.read_insert_other _ _ h, Memory.read_erase_other m h]

theorem Memory.wf_nil (size : Nat) : Memory.wf fill size [] := by simp [Memory.wf]

theorem Memory.wf_erase {size : Nat} {m : Memory} (a : Nat) (h : Memory.wf fill size m) :
    Memory.wf fill size (Memory.erase a m) :=
  ⟨h.1.filter _, fun c hc => h.2 c (Memory.mem_erase.mp hc).1⟩

theorem Memory.pairwise_insert {m : Memory} {a : Nat} {b : Byte}
    (h : m.Pairwise (fun x y => x.1 < y.1)) (ha : ∀ c ∈ m, c.1 ≠ a) :
    (Memory.insert a b m).Pairwise (fun x y => x.1 < y.1) := by
  induction m with
  | nil => simp [Memory.insert]
  | cons c m ih =>
    have hc : c.1 ≠ a := ha c (by simp)
    rw [List.pairwise_cons] at h
    by_cases hlt : a < c.1
    · rw [Memory.insert, if_pos hlt, List.pairwise_cons, List.pairwise_cons]
      refine ⟨fun d hd => ?_, h⟩
      rcases List.mem_cons.mp hd with rfl | hd
      · exact hlt
      · exact Nat.lt_trans hlt (h.1 d hd)
    · rw [Memory.insert, if_neg hlt, List.pairwise_cons]
      refine ⟨fun d hd => ?_, ih h.2 (fun d hd => ha d (by simp [hd]))⟩
      rcases Memory.mem_insert.mp hd with rfl | hd
      · exact Nat.lt_of_le_of_ne (Nat.le_of_not_lt hlt) hc
      · exact h.1 d hd

/-- A write inside the memory keeps the canonical form (log 9). -/
theorem Memory.wf_write {size : Nat} {m : Memory} {a : Nat} (b : Byte) (h : Memory.wf fill size m) (ha : a < size) :
    Memory.wf fill size (Memory.write fill a b m) := by
  unfold Memory.write
  split
  · exact Memory.wf_erase a h
  · rename_i hb
    have he := Memory.wf_erase a h
    refine ⟨Memory.pairwise_insert he.1 (fun c hc => (Memory.mem_erase.mp hc).2), fun c hc => ?_⟩
    rcases Memory.mem_insert.mp hc with rfl | hc
    · exact ⟨ha, hb⟩
    · exact he.2 c hc

/-- Writing a sequence inside the memory keeps the canonical form (log 9). -/
theorem Memory.wf_writeBytes {size : Nat} (bs : Bytes) : ∀ {m : Memory} {a : Nat}, Memory.wf fill size m →
    a + bs.length ≤ size → Memory.wf fill size (Memory.writeBytes fill bs a m) := by
  induction bs with
  | nil => exact fun h _ => h
  | cons b bs ih =>
    intro m a h ha
    simp only [List.length_cons] at ha
    exact ih (Memory.wf_write b h (by omega)) (by omega)

/-- What an address holds after a sequence was written from `a` on: the byte of the sequence that went there, or what it
held before. -/
theorem Memory.read_writeBytes (bs : Bytes) : ∀ (m : Memory) (a x : Nat),
    Memory.read fill (Memory.writeBytes fill bs a m) x =
      if h : a ≤ x ∧ x - a < bs.length then bs[x - a] else Memory.read fill m x := by
  induction bs with
  | nil => intro m a x; simp [Memory.writeBytes]
  | cons b bs ih =>
    intro m a x
    rw [Memory.writeBytes, ih]
    by_cases hx : x = a
    · subst hx
      simp
    · by_cases hlt : a + 1 ≤ x ∧ x - (a + 1) < bs.length
      · have h2 : a ≤ x ∧ x - a < (b :: bs).length := by simp only [List.length_cons]; omega
        rw [dif_pos hlt, dif_pos h2]
        have : x - a = (x - (a + 1)) + 1 := by omega
        simp [this]
      · have h2 : ¬(a ≤ x ∧ x - a < (b :: bs).length) := by simp only [List.length_cons]; omega
        rw [dif_neg hlt, dif_neg h2, Memory.read_write_other _ _ hx]

@[simp] theorem Memory.length_readBytes (m : Memory) (a n : Nat) : (Memory.readBytes fill m a n).length = n := by
  induction n generalizing a with
  | zero => rfl
  | succ n ih => simp [Memory.readBytes, ih]

theorem Memory.getElem_readBytes (m : Memory) (a n i : Nat) (h : i < (Memory.readBytes fill m a n).length) :
    (Memory.readBytes fill m a n)[i] = Memory.read fill m (a + i) := by
  induction n generalizing a i with
  | zero => simp at h
  | succ n ih =>
    cases i with
    | zero => rfl
    | succ i =>
      simp only [Memory.readBytes, List.getElem_cons_succ]
      rw [ih]
      congr 1
      omega

/-- Reads of one sequence agree when the memories agree at its addresses. -/
theorem Memory.readBytes_congr {fill' : Nat → Byte} {m m' : Memory} {a a' n : Nat}
    (h : ∀ i < n, Memory.read fill m (a + i) = Memory.read fill' m' (a' + i)) :
    Memory.readBytes fill m a n = Memory.readBytes fill' m' a' n := by
  refine List.ext_getElem (by simp) (fun i h1 _ => ?_)
  rw [Memory.getElem_readBytes, Memory.getElem_readBytes]
  exact h i (by simpa using h1)

/-- A sequence written is read back whole (R73). -/
theorem Memory.readBytes_writeBytes (bs : Bytes) (m : Memory) (a : Nat) :
    Memory.readBytes fill (Memory.writeBytes fill bs a m) a bs.length = bs := by
  refine List.ext_getElem (by simp) (fun i h1 h2 => ?_)
  rw [Memory.getElem_readBytes, Memory.read_writeBytes]
  have h3 : a ≤ a + i ∧ a + i - a < bs.length := by omega
  rw [dif_pos h3]
  congr 1
  omega

theorem Memory.readBytes_append (m : Memory) (a n k : Nat) :
    Memory.readBytes fill m a (n + k) = Memory.readBytes fill m a n ++ Memory.readBytes fill m (a + n) k := by
  induction n generalizing a with
  | zero => simp [Memory.readBytes]
  | succ n ih =>
    have : n + 1 + k = (n + k) + 1 := by omega
    rw [this]
    simp only [Memory.readBytes, ih, List.cons_append]
    congr 3
    omega

/-- In canonical form, memories that read the same everywhere are the same data (log 9). -/
theorem Memory.ext_of_read {size size' : Nat} : ∀ {m m' : Memory}, Memory.wf fill size m → Memory.wf fill size' m' →
    (∀ a, Memory.read fill m a = Memory.read fill m' a) → m = m' := by
  have unlisted : ∀ (m : Memory) (a : Nat), (∀ c ∈ m, c.1 ≠ a) → Memory.read fill m a = fill a := by
    intro m a
    induction m with
    | nil => intro _; rfl
    | cons c m ih =>
      intro h
      have hc : c.1 ≠ a := h c (by simp)
      simpa [Memory.read, hc] using ih (fun d hd => h d (by simp [hd]))
  intro m
  induction m with
  | nil =>
    intro m' _ h' hr
    cases m' with
    | nil => rfl
    | cons d m' =>
      have := hr d.1
      simp only [Memory.read, if_true] at this
      exact absurd this.symm (h'.2 d (by simp)).2
  | cons c m ih =>
    intro m' h h' hr
    cases m' with
    | nil =>
      have := hr c.1
      simp only [Memory.read, if_true] at this
      exact absurd this (h.2 c (by simp)).2
    | cons d m' =>
      obtain ⟨hp, hv⟩ := h
      obtain ⟨hp', hv'⟩ := h'
      rw [List.pairwise_cons] at hp hp'
      have key : c.1 = d.1 := by
        by_contra hne
        rcases Nat.lt_or_gt_of_ne hne with hlt | hlt
        · have h1 : Memory.read fill (d :: m') c.1 = fill c.1 := unlisted _ _ (by
            intro e he
            rcases List.mem_cons.mp he with rfl | he
            · omega
            · have := hp'.1 e he; omega)
          have h2 := hr c.1
          rw [h1] at h2
          simp only [Memory.read, if_true] at h2
          exact (hv c (by simp)).2 h2
        · have h1 : Memory.read fill (c :: m) d.1 = fill d.1 := unlisted _ _ (by
            intro e he
            rcases List.mem_cons.mp he with rfl | he
            · omega
            · have := hp.1 e he; omega)
          have h2 := hr d.1
          rw [h1] at h2
          simp only [Memory.read, if_true] at h2
          exact (hv' d (by simp)).2 h2.symm
      have val : c.2 = d.2 := by
        have h2 := hr c.1
        simpa [Memory.read, key] using h2
      have tails : m = m' := ih ⟨hp.2, fun e he => hv e (by simp [he])⟩ ⟨hp'.2, fun e he => hv' e (by simp [he])⟩ (by
        intro a
        by_cases ha : c.1 = a
        · rw [unlisted m a (fun e he => by have := hp.1 e he; omega),
            unlisted m' a (fun e he => by have := hp'.1 e he; omega)]
        · have h2 := hr a
          simpa [Memory.read, ha, key ▸ ha] using h2)
      rw [tails, Prod.ext key val]

end Sys2Proof.Machine
end

