-- ==== Sys2Proof/Laws/Wire.lean ====
section
/-! SUPPORT. The laws of the wire format (R90 to R95): `unbe` inverts `be_4` and `be_8`, the header has 36 bytes, and each
field stands at its offset. -/

namespace Sys2Proof.Machine

@[simp] theorem length_be4 (v : Word) : (be4 v).length = 4 := rfl

@[simp] theorem length_be8 (v : Double) : (be8 v).length = 8 := rfl

theorem unbe_be4 (v : Word) : unbe (be4 v) = v.toNat := by
  have := v.isLt
  simp only [unbe, be4, List.foldl_cons, List.foldl_nil, BitVec.extractLsb'_toNat, Nat.shiftRight_eq_div_pow]
  omega

theorem unbe_be8 (v : Double) : unbe (be8 v) = v.toNat := by
  have := v.isLt
  simp only [unbe, be8, List.foldl_cons, List.foldl_nil, BitVec.extractLsb'_toNat, Nat.shiftRight_eq_div_pow]
  omega

theorem unbe_lt_of_length {s : Bytes} : unbe s < 256 ^ s.length := by
  have go : ∀ (s : Bytes) (acc : Nat), s.foldl (fun acc b => acc * 256 + b.toNat) acc < (acc + 1) * 256 ^ s.length := by
    intro s
    induction s with
    | nil => intro acc; simp
    | cons b s ih =>
      intro acc
      have hb := b.isLt
      refine Nat.lt_of_lt_of_le (ih (acc * 256 + b.toNat)) ?_
      rw [List.length_cons, Nat.pow_succ, Nat.mul_comm (256 ^ s.length) 256, ← Nat.mul_assoc]
      exact Nat.mul_le_mul_right _ (by omega)
  simpa [unbe] using go s 0

theorem be4_unbe (a b c d : Byte) : be4 (BitVec.ofNat 32 (unbe [a, b, c, d])) = [a, b, c, d] := by
  have := a.isLt; have := b.isLt; have := c.isLt; have := d.isLt
  simp only [be4, unbe, List.foldl_cons, List.foldl_nil, List.cons.injEq, and_true]
  refine ⟨?_, ?_, ?_, ?_⟩ <;> apply BitVec.eq_of_toNat_eq <;>
    simp only [BitVec.extractLsb'_toNat, Nat.shiftRight_eq_div_pow, BitVec.toNat_ofNat] <;> omega

theorem be8_unbe (a b c d e f g h : Byte) :
    be8 (BitVec.ofNat 64 (unbe [a, b, c, d, e, f, g, h])) = [a, b, c, d, e, f, g, h] := by
  have := a.isLt; have := b.isLt; have := c.isLt; have := d.isLt
  have := e.isLt; have := f.isLt; have := g.isLt; have := h.isLt
  simp only [be8, unbe, List.foldl_cons, List.foldl_nil, List.cons.injEq, and_true]
  refine ⟨?_, ?_, ?_, ?_, ?_, ?_, ?_, ?_⟩ <;> apply BitVec.eq_of_toNat_eq <;>
    simp only [BitVec.extractLsb'_toNat, Nat.shiftRight_eq_div_pow, BitVec.toNat_ofNat] <;> omega

/-- Any four bytes, read as an integer and written again, are themselves (R94, R95). -/
theorem be4_ofNat_unbe {s : Bytes} (h : s.length = 4) : be4 (BitVec.ofNat 32 (unbe s)) = s := by
  obtain ⟨a, b, c, d, rfl⟩ : ∃ a b c d, s = [a, b, c, d] := by
    match s, h with
    | [a, b, c, d], _ => exact ⟨a, b, c, d, rfl⟩
  exact be4_unbe a b c d

/-- Any eight bytes, read as an integer and written again, are themselves (R94, R95). -/
theorem be8_ofNat_unbe {s : Bytes} (h : s.length = 8) : be8 (BitVec.ofNat 64 (unbe s)) = s := by
  obtain ⟨a, b, c, d, e, f, g, i, rfl⟩ : ∃ a b c d e f g i, s = [a, b, c, d, e, f, g, i] := by
    match s, h with
    | [a, b, c, d, e, f, g, i], _ => exact ⟨a, b, c, d, e, f, g, i, rfl⟩
  exact be8_unbe a b c d e f g i

/-- "`len(hdr(...)) = 36`" (R91). -/
@[simp] theorem length_hdr (h : Header) : (hdr h).length = 36 := by
  obtain ⟨ver, sid, intent, prio, flags, seq, n, ts⟩ := h
  simp [hdr]

/-- The header as its eight fields in wire order (R90). -/
theorem hdr_fields (h : Header) :
    hdr h = [h.1] ++ h.2.1.toList ++ [h.2.2.1] ++ [h.2.2.2.1] ++ [h.2.2.2.2.1] ++ be4 h.2.2.2.2.2.1
      ++ be4 h.2.2.2.2.2.2.1 ++ be8 h.2.2.2.2.2.2.2 := rfl

theorem State.length_packetPayload (p : Params) (s : State) :
    (s.packetPayload p).length = s.payloadLen.toNat := by
  simp [State.packetPayload, State.readPs]

theorem State.length_readWs (p : Params) (s : State) (a n : Nat) : (s.readWs p a n).length = n := by
  simp [State.readWs]

theorem State.readWs_append (p : Params) (s : State) (a n k : Nat) :
    s.readWs p a (n + k) = s.readWs p a n ++ s.readWs p (a + n) k :=
  Memory.readBytes_append _ _ _ _

theorem State.toList_wireVector (p : Params) (s : State) (a n : Nat) :
    (s.wireVector p a n).toList = s.readWs p a n := by
  refine List.ext_getElem (by simp [State.readWs]) (fun i h1 h2 => ?_)
  simp only [State.readWs, Memory.getElem_readBytes]
  simp [State.wireVector, State.readW]

/-- `MemRead(P:a, n)` byte by byte. -/
theorem State.readPs_eq_map (p : Params) (s : State) (a n : Nat) :
    s.readPs p a n = (List.range n).map (fun i => s.readP p (a + i)) := by
  refine List.ext_getElem (by simp [State.readPs]) (fun i h1 h2 => ?_)
  simp only [State.readPs, Memory.getElem_readBytes]
  simp [State.readP]

/-- `MemRead(W:a, n)` byte by byte. -/
theorem State.readWs_eq_map (p : Params) (s : State) (a n : Nat) :
    s.readWs p a n = (List.range n).map (fun i => s.readW p (a + i)) := by
  refine List.ext_getElem (by simp [State.readWs]) (fun i h1 h2 => ?_)
  simp only [State.readWs, Memory.getElem_readBytes]
  simp [State.readW]

/-- What a write to W leaves at each address of W (R73). -/
theorem State.readW_writeWs (p : Params) (s : State) (a : Nat) (v : Bytes) (x : Nat) :
    (s.writeWs p a v).readW p x = if h : a ≤ x ∧ x - a < v.length then v[x - a] else s.readW p x :=
  Memory.read_writeBytes v s.wire a x

/-- What a write to P leaves at each address of P (R73). -/
theorem State.readP_writePs (p : Params) (s : State) (a : Nat) (v : Bytes) (x : Nat) :
    (s.writePs p a v).readP p x = if h : a ≤ x ∧ x - a < v.length then v[x - a] else s.readP p x :=
  Memory.read_writeBytes v s.payload a x

end Sys2Proof.Machine
end

