-- ==== Sys2Proof/Laws/Codec.lean ====
section
/-! SUPPORT. What CONSTRUCT, ENCODE, DECODE and VERIFY can do, said once: the fields and the bytes ENCODE leaves (R230),
the six checks of DECODE as one chain (R240 to R248), and which parts of the state each command can change. -/

namespace Sys2Proof.Machine

variable (p : Params) (s : State)

/-! ### The encoding of a Packet -/

theorem length_ser (h : Header) (payload : Bytes) : (ser h payload).length = 36 + payload.length := by
  simp [ser]

/-- "Output length is always exactly `36 + payload.length + 32`" (R231). -/
theorem State.length_encoding : (s.encoding p).length = 68 + s.payloadLen.toNat := by
  simp [State.encoding, length_ser, State.length_packetPayload]
  omega

/-- The bytes ENCODE has written before it takes the digest (R230). -/
theorem State.readW_writeBody (x : Nat) :
    (s.writeBody p).readW p x =
      if h : x < (ser (s.header p) (s.packetPayload p)).length then (ser (s.header p) (s.packetPayload p))[x]
      else s.readW p x := by
  have hl := s.length_packetPayload p
  have hs : (ser (s.header p) (s.packetPayload p)).length = 36 + s.payloadLen.toNat := by rw [length_ser, hl]
  rw [State.writeBody, State.readW_writeWs, State.readW_writeWs]
  simp only [Config.headerLen]
  by_cases h1 : x < 36
  · have hc : ¬(36 ≤ x ∧ x - 36 < (s.packetPayload p).length) := by omega
    have hd : 0 ≤ x ∧ x - 0 < (hdr (s.header p)).length := by simp; omega
    rw [dif_neg hc, dif_pos hd, dif_pos (by omega)]
    simp only [ser, Nat.sub_zero]
    rw [List.getElem_append_left (by simpa using h1)]
  · by_cases h2 : x < 36 + s.payloadLen.toNat
    · have hc : 36 ≤ x ∧ x - 36 < (s.packetPayload p).length := by omega
      rw [dif_pos hc, dif_pos (by omega)]
      simp only [ser]
      rw [List.getElem_append_right (by simpa using h1)]
      simp
    · have hc : ¬(36 ≤ x ∧ x - 36 < (s.packetPayload p).length) := by omega
      have hd : ¬(0 ≤ x ∧ x - 0 < (hdr (s.header p)).length) := by simp; omega
      rw [dif_neg hc, dif_neg hd, dif_neg (by omega)]

/-- Reading back from address 0 what stands there byte for byte gives it whole. -/
theorem State.readWs_eq_of_readW {b : Bytes} (h : ∀ (x : Nat) (hx : x < b.length), s.readW p x = b[x]) :
    s.readWs p 0 b.length = b := by
  refine List.ext_getElem (by simp [State.readWs]) (fun i h1 h2 => ?_)
  simp only [State.readWs, Memory.getElem_readBytes, Nat.zero_add]
  exact h i h2

/-- The digest ENCODE takes over W is the Packet's hash (R200, R202). -/
theorem State.wireHash_writeBody : (s.writeBody p).wireHash p s.payloadLen.toNat = s.packetHash p := by
  have hs : (ser (s.header p) (s.packetPayload p)).length = Config.headerLen + s.payloadLen.toNat := by
    rw [length_ser, s.length_packetPayload p]
  rw [State.wireHash, State.packetHash, ← hs]
  congr 1
  exact State.readWs_eq_of_readW p _ (fun x hx => by rw [State.readW_writeBody, dif_pos hx])

/-! ### ENCODE -/

@[simp] theorem encodeWith_sessionId : (encodeWith p s).sessionId = s.sessionId := by simp [encodeWith, State.writeBody]
@[simp] theorem encodeWith_intent : (encodeWith p s).intent = s.intent := by simp [encodeWith, State.writeBody]
@[simp] theorem encodeWith_priority : (encodeWith p s).priority = s.priority := by simp [encodeWith, State.writeBody]
@[simp] theorem encodeWith_flags : (encodeWith p s).flags = s.flags := by simp [encodeWith, State.writeBody]
@[simp] theorem encodeWith_sequence : (encodeWith p s).sequence = s.sequence := by simp [encodeWith, State.writeBody]
@[simp] theorem encodeWith_payloadLen : (encodeWith p s).payloadLen = s.payloadLen := by simp [encodeWith, State.writeBody]
@[simp] theorem encodeWith_timestamp : (encodeWith p s).timestamp = s.timestamp := by simp [encodeWith, State.writeBody]
@[simp] theorem encodeWith_status : (encodeWith p s).status = 0x00 := rfl
@[simp] theorem encodeWith_errByte : (encodeWith p s).errByte = 0x00 := rfl
@[simp] theorem encodeWith_result : (encodeWith p s).result = 0x00 := rfl
@[simp] theorem encodeWith_argLen : (encodeWith p s).argLen = s.argLen := by simp [encodeWith, State.writeBody]
@[simp] theorem encodeWith_payload : (encodeWith p s).payload = s.payload := by simp [encodeWith, State.writeBody]
@[simp] theorem encodeWith_resets : (encodeWith p s).resets = s.resets := by simp [encodeWith, State.writeBody]
@[simp] theorem encodeWith_nowDraws : (encodeWith p s).nowDraws = s.nowDraws := by simp [encodeWith, State.writeBody]
@[simp] theorem encodeWith_pending : (encodeWith p s).pending = s.pending := by simp [encodeWith, State.writeBody]
@[simp] theorem encodeWith_answers : (encodeWith p s).answers = s.answers := by simp [encodeWith, State.writeBody]
@[simp] theorem encodeWith_header : (encodeWith p s).header p = s.header p := by simp [State.header]
@[simp] theorem encodeWith_packetPayload : (encodeWith p s).packetPayload p = s.packetPayload p := by
  simp [State.packetPayload, State.readPs, State.payloadFill]
@[simp] theorem encodeWith_packetHash : (encodeWith p s).packetHash p = s.packetHash p := by simp [State.packetHash]
@[simp] theorem encodeWith_wireLen :
    (encodeWith p s).wireLen = BitVec.ofNat 32 (68 + s.payloadLen.toNat) := rfl
@[simp] theorem encodeWith_hash : (encodeWith p s).hash = s.packetHash p := s.wireHash_writeBody p
@[simp] theorem encodeWith_readP (q : Params) (i : Nat) : (encodeWith p s).readP q i = s.readP q i := by
  simp [State.readP, State.payloadFill]

/-- Every byte of W after ENCODE: the encoding of the Packet, then what was there (R230). -/
theorem encodeWith_readW (x : Nat) :
    (encodeWith p s).readW p x =
      if h : x < (s.encoding p).length then (s.encoding p)[x] else s.readW p x := by
  have hl := s.length_packetPayload p
  have he := s.length_encoding p
  have hs : (ser (s.header p) (s.packetPayload p)).length = 36 + s.payloadLen.toNat := by rw [length_ser, hl]
  have key : (encodeWith p s).readW p x =
      ((s.writeBody p).writeWs p (Config.headerLen + s.payloadLen.toNat)
        ((s.writeBody p).wireHash p s.payloadLen.toNat).toList).readW p x := rfl
  rw [key, State.readW_writeWs, State.readW_writeBody, State.wireHash_writeBody]
  simp only [Config.headerLen]
  have hh : (s.packetHash p).toList.length = 32 := by simp
  by_cases h1 : x < 36 + s.payloadLen.toNat
  · rw [dif_neg (by omega), dif_pos (by omega), dif_pos (by omega)]
    simp only [State.encoding]
    rw [List.getElem_append_left (by omega)]
  · by_cases h2 : x < 68 + s.payloadLen.toNat
    · rw [dif_pos (by omega), dif_pos (by omega)]
      simp only [State.encoding]
      rw [List.getElem_append_right (by omega)]
      congr 1
      omega
    · rw [dif_neg (by omega), dif_neg (by omega), dif_neg (by omega)]

/-- The same, as the byte of the encoding if there is one. -/
theorem encodeWith_readW_getD (x : Nat) :
    (encodeWith p s).readW p x = ((s.encoding p)[x]?).getD (s.readW p x) := by
  rw [encodeWith_readW]
  split
  · rename_i h
    rw [List.getElem?_eq_getElem h]; rfl
  · rename_i h
    rw [List.getElem?_eq_none (by omega)]; rfl

/-- W after ENCODE, read whole, is the encoding (R230). -/
theorem encodeWith_readWs : (encodeWith p s).readWs p 0 (68 + s.payloadLen.toNat) = s.encoding p := by
  rw [← s.length_encoding p]
  exact State.readWs_eq_of_readW p _ (fun x hx => by rw [encodeWith_readW, dif_pos hx])

/-- Any stretch of W inside the encoding, after ENCODE, is that stretch of the encoding (R230). -/
theorem encodeWith_readWs_slice (a n : Nat) (h : a + n ≤ 68 + s.payloadLen.toNat) :
    (encodeWith p s).readWs p a n = ((s.encoding p).drop a).take n := by
  have hl := s.length_encoding p
  refine List.ext_getElem (by simp [State.readWs]; omega) (fun i h1 h2 => ?_)
  simp only [State.readWs, Memory.getElem_readBytes]
  have := encodeWith_readW p s (a + i)
  simp only [State.length_readWs] at h1
  rw [dif_pos (by omega)] at this
  simpa [State.readW] using this

/-- The encoding, field by field in wire order (R90). -/
theorem State.encoding_fields :
    s.encoding p = [p.supportedVersion] ++ s.sessionId.toList ++ [s.intent] ++ [s.priority] ++ [s.flags] ++
      be4 s.sequence ++ be4 s.payloadLen ++ be8 s.timestamp ++ s.packetPayload p ++ (s.packetHash p).toList := by
  simp only [State.encoding, ser, hdr_fields]; rfl

theorem State.readW_of_readWs_one {a : Nat} {b : Byte} (h : s.readWs p a 1 = [b]) : s.readW p a = b := by
  simpa [State.readWs, Memory.readBytes, State.readW] using h

/-- What stands at each offset of W after ENCODE (R69, R90, R230). -/
theorem encodeWith_fields :
    (encodeWith p s).readW p 0 = p.supportedVersion ∧ (encodeWith p s).readWs p 1 16 = s.sessionId.toList ∧
    (encodeWith p s).readW p 17 = s.intent ∧ (encodeWith p s).readW p 18 = s.priority ∧
    (encodeWith p s).readW p 19 = s.flags ∧ (encodeWith p s).readWs p 20 4 = be4 s.sequence ∧
    (encodeWith p s).readWs p 24 4 = be4 s.payloadLen ∧ (encodeWith p s).readWs p 28 8 = be8 s.timestamp ∧
    (encodeWith p s).readWs p 36 s.payloadLen.toNat = s.packetPayload p ∧
    (encodeWith p s).readWs p (36 + s.payloadLen.toNat) 32 = (s.packetHash p).toList ∧
    (encodeWith p s).readWs p 0 (36 + s.payloadLen.toNat) = ser (s.header p) (s.packetPayload p) := by
  have hl := s.length_packetPayload p
  have hs : s.sessionId.toList.length = 16 := by simp
  have hh : (s.packetHash p).toList.length = 32 := by simp
  have d17 : List.drop 17 s.sessionId.toList = [] := List.drop_of_length_le (by omega)
  have d18 : List.drop 18 s.sessionId.toList = [] := List.drop_of_length_le (by omega)
  refine ⟨State.readW_of_readWs_one p _ ?_, ?_, State.readW_of_readWs_one p _ ?_, State.readW_of_readWs_one p _ ?_,
    State.readW_of_readWs_one p _ ?_, ?_, ?_, ?_, ?_, ?_, ?_⟩
  all_goals rw [encodeWith_readWs_slice _ _ _ _ (by omega)]
  · rw [State.encoding_fields]; simp
  · rw [State.encoding_fields]; simp [hs]
  · rw [State.encoding_fields]; simp [hs]
  · rw [State.encoding_fields]; simp [List.drop_append, hs, d17]
  · rw [State.encoding_fields]; simp [List.drop_append, hs, d18]
  · rw [State.encoding_fields]; simp [List.drop_append, List.take_append, hs, be4]
  · rw [State.encoding_fields]; simp [List.drop_append, List.take_append, hs, be4]
  · rw [State.encoding_fields]; simp [List.drop_append, List.take_append, hs, be4, be8]
  · rw [State.encoding_fields]; simp [List.drop_append, List.take_append, hs, be4, be8, hl]
  · simp only [State.encoding]
    rw [List.drop_append_of_le_length (by rw [length_ser]; omega), List.drop_of_length_le (by rw [length_ser]; omega)]
    simp [hh]
  · simp only [State.encoding, List.drop_zero]
    rw [List.take_append_of_le_length (by rw [length_ser]; omega), List.take_of_length_le (by rw [length_ser]; omega)]

/-- The declared length after ENCODE is PAYLOAD_LEN (R90, R93). -/
theorem encodeWith_declaredLen : (encodeWith p s).declaredLen p = s.payloadLen.toNat := by
  rw [State.declaredLen, (encodeWith_fields p s).2.2.2.2.2.2.1, unbe_be4]

/-- WIRE_LEN after ENCODE as a number (R231). -/
theorem encodeWith_inputLen (h : s.payloadLen.toNat ≤ 10485760) :
    (encodeWith p s).inputLen = 68 + s.payloadLen.toNat := by
  simp only [State.inputLen, encodeWith_wireLen, BitVec.toNat_ofNat]
  omega

/-! ### DECODE -/

theorem State.declaredLen_eq_map :
    s.declaredLen p = unbe ((List.range 4).map (fun i => s.readW p (24 + i))) := by
  rw [State.declaredLen, State.readWs_eq_map]

/-- Check 6 compares the digest of the bytes before the hash field with the 32 bytes of the field (R246). -/
theorem State.wireHash_eq_carriedHash_iff (n : Nat) :
    s.wireHash p n = s.carriedHash p n ↔ (p.digest (s.readWs p 0 (36 + n))).toList = s.readWs p (36 + n) 32 := by
  rw [← Vector.toList_inj, State.carriedHash, State.toList_wireVector, State.wireHash]

/-- The six checks with the numbers of R241 to R245. -/
theorem decodeChecks_eq :
    decodeChecks p s =
      if s.wireLen.toNat < 68 then .error .tooSmall
      else if 10485828 < s.wireLen.toNat then .error .tooLarge
      else if s.readW p 0 ≠ p.supportedVersion then .error (.unsupportedVersion (s.readW p 0))
      else if p.intentDefined (s.readW p 17) = false then .error (.invalidIntent (s.readW p 17))
      else if 36 + s.declaredLen p + 32 ≠ s.wireLen.toNat then .error .lengthMismatch
      else if s.wireHash p (s.declaredLen p) ≠ s.carriedHash p (s.declaredLen p) then .error .invalidHash
      else .ok (s.declaredLen p) := rfl

/-- DECODE goes well exactly when none of the six conditions of R241 to R246 holds. -/
theorem decodeChecks_ok_iff (n : Nat) :
    decodeChecks p s = .ok n ↔
      68 ≤ s.inputLen ∧ s.inputLen ≤ 10485828 ∧ s.readW p 0 = p.supportedVersion ∧
      p.intentDefined (s.readW p 17) = true ∧ n = s.declaredLen p ∧ 68 + n = s.inputLen ∧
      s.wireHash p n = s.carriedHash p n := by
  unfold decodeChecks
  simp only [Config.minPacket, Config.maxPacket, Config.headerLen, Config.hashLen]
  constructor
  · intro h
    split at h; · cases h
    split at h; · cases h
    split at h; · cases h
    split at h; · cases h
    split at h; · cases h
    split at h; · cases h
    rename_i h1 h2 h3 h4 h5 h6
    cases h
    refine ⟨by omega, by omega, by simpa using h3, by simpa using h4, rfl, by omega, by simpa using h6⟩
  · rintro ⟨h1, h2, h3, h4, rfl, h6, h7⟩
    rw [if_neg (by omega), if_neg (by omega), if_neg (by simpa using h3), if_neg (by simpa using h4),
      if_neg (by omega), if_neg (by simpa using h7)]

/-- A failing DECODE reports one of its six errors (R270, R271). -/
theorem decodeChecks_error {e : ErrorOutcome} (h : decodeChecks p s = .error e) :
    e = .tooSmall ∨ e = .tooLarge ∨ (e = .unsupportedVersion (s.readW p 0) ∧ s.readW p 0 ≠ p.supportedVersion) ∨
      (e = .invalidIntent (s.readW p 17) ∧ p.intentDefined (s.readW p 17) = false) ∨
      e = .lengthMismatch ∨ e = .invalidHash := by
  unfold decodeChecks at h
  split at h; · cases h; simp
  split at h; · cases h; simp
  split at h; · cases h; simp_all
  split at h; · cases h; simp_all
  split at h; · cases h; simp
  split at h; · cases h; simp
  cases h

/-- What DECODE can do: raise one error, or load the Packet (R240, R247). -/
theorem decodeWith_cases :
    (∃ e, decodeChecks p s = .error e ∧ decodeWith p s = s.raise e) ∨
    (∃ n, decodeChecks p s = .ok n ∧ decodeWith p s = (s.loadPacket p n).finish 0x00) := by
  unfold decodeWith
  cases h : decodeChecks p s with
  | error e => exact .inl ⟨e, rfl, rfl⟩
  | ok n => exact .inr ⟨n, rfl, rfl⟩

/-- What ENCODE has written passes the six checks, the length being PAYLOAD_LEN (R241 to R246). -/
theorem decodeChecks_encodeWith (hi : p.intentDefined s.intent = true) (hl : s.payloadLen.toNat ≤ 10485760) :
    decodeChecks p (encodeWith p s) = .ok s.payloadLen.toNat := by
  have hil := encodeWith_inputLen p s hl
  obtain ⟨f0, -, f2, -, -, -, -, -, -, f9, f10⟩ := encodeWith_fields p s
  rw [decodeChecks_ok_iff]
  refine ⟨by omega, by omega, f0, by rw [f2]; exact hi, (encodeWith_declaredLen p s).symm, by omega, ?_⟩
  rw [State.wireHash_eq_carriedHash_iff, f10, f9, State.packetHash]

/-! ### CONSTRUCT and VERIFY -/

/-- What CONSTRUCT can do (R220, R222). -/
theorem constructWith_cases (imm8 : Byte) :
    (p.intentDefined imm8 = false ∧ constructWith p imm8 s = s.raise .refused) ∨
    (p.intentDefined imm8 = true ∧ 10485760 < s.argLen.toNat ∧ constructWith p imm8 s = s.raise .payloadTooLarge) ∨
    (p.intentDefined imm8 = true ∧ s.argLen.toNat ≤ 10485760 ∧
      constructWith p imm8 s =
        { s with
          intent := imm8, priority := 0x80, flags := p.defaultFlags, sequence := 0, payloadLen := s.argLen,
          timestamp := p.now s.nowDraws, hash := Vector.replicate 32 0, nowDraws := s.nowDraws + 1,
          status := 0, errByte := 0, result := 0 }) := by
  unfold constructWith
  cases hi : p.intentDefined imm8 with
  | false => simp
  | true =>
    by_cases hl : Config.maxPayload < s.offeredLen
    · exact .inr (.inl ⟨rfl, hl, by simp [hl]⟩)
    · refine .inr (.inr ⟨rfl, Nat.le_of_not_lt hl, ?_⟩)
      rw [if_neg (by simp), if_neg hl]
      rfl

/-- What VERIFY answers (R250). -/
theorem verifyWith_eq :
    verifyWith p s = s.finish (if s.packetHash p = s.hash then 0x01 else 0x00) := by
  unfold verifyWith boolByte
  by_cases h : s.packetHash p = s.hash <;> simp [h]

end Sys2Proof.Machine
end

