-- ==== Sys2Proof/Laws/Decode.lean ====
section
/-! SUPPORT. The decoder said once, by opcode and imm8 (R120, R121, R123), so that no proof searches the table again. -/

namespace Sys2Proof

theorem opcodeOf_wordOf (op imm8 : Byte) : opcodeOf (wordOf op imm8) = op := by
  apply BitVec.eq_of_getLsbD_eq
  intro i hi
  simp only [opcodeOf, wordOf, BitVec.getLsbD_extractLsb', BitVec.getLsbD_append]
  simp [hi]

theorem imm8Of_wordOf (op imm8 : Byte) : imm8Of (wordOf op imm8) = imm8 := by
  apply BitVec.eq_of_getLsbD_eq
  intro i hi
  simp only [imm8Of, wordOf, BitVec.getLsbD_extractLsb', BitVec.getLsbD_append]
  simp [hi]

/-- Every word is an opcode and an imm8. -/
theorem wordOf_fields (w : Half) : wordOf (opcodeOf w) (imm8Of w) = w := by
  simp only [wordOf, opcodeOf, imm8Of]
  apply BitVec.eq_of_getLsbD_eq
  intro i hi
  simp only [BitVec.getLsbD_append, BitVec.getLsbD_extractLsb']
  by_cases h : i < 8
  · simp [h]
  · have h1 : i - 8 < 8 := by omega
    have h2 : 8 + (i - 8) = i := by omega
    simp [h, h1, h2]

theorem toNat_wordOf (op imm8 : Byte) : (wordOf op imm8).toNat = op.toNat * 256 + imm8.toNat := by
  have := imm8.isLt
  rw [wordOf, BitVec.toNat_append, Nat.shiftLeft_eq, Nat.mul_comm, ← Nat.two_pow_add_eq_or_of_lt this]

theorem wordOf_eq_ofNat (op imm8 : Byte) : BitVec.ofNat 16 (op.toNat * 256 + imm8.toNat) = wordOf op imm8 := by
  rw [← toNat_wordOf, BitVec.ofNat_toNat, BitVec.setWidth_eq]

theorem wordOf_and (op imm8 a b : Byte) : wordOf op imm8 &&& wordOf a b = wordOf (op &&& a) (imm8 &&& b) := by
  apply BitVec.eq_of_getLsbD_eq
  intro i hi
  simp only [wordOf, BitVec.getLsbD_and, BitVec.getLsbD_append]
  split <;> rfl

theorem wordOf_inj {op imm8 a b : Byte} : wordOf op imm8 = wordOf a b ↔ op = a ∧ imm8 = b := by
  refine ⟨fun h => ⟨?_, ?_⟩, fun h => h.1 ▸ h.2 ▸ rfl⟩
  · rw [← opcodeOf_wordOf op imm8, h, opcodeOf_wordOf]
  · rw [← imm8Of_wordOf op imm8, h, imm8Of_wordOf]

theorem matches_operand_row (op imm8 a : Byte) (f : Byte → Instr) :
    OpcodeRow.matchesWord ⟨0xFF00, wordOf a 0, f⟩ (wordOf op imm8) = decide (op = a) := by
  have : (0xFF00 : Half) = wordOf 0xFF 0x00 := by decide
  simp only [OpcodeRow.matchesWord, this, wordOf_and]
  have h1 : op &&& 0xFF = op := by revert op; decide
  have h2 : imm8 &&& 0x00 = 0 := by simp
  rw [h1, h2, Bool.eq_iff_iff]
  simp [wordOf_inj]

theorem matches_plain_row (op imm8 a : Byte) (f : Byte → Instr) :
    OpcodeRow.matchesWord ⟨0xFFFF, wordOf a 0, f⟩ (wordOf op imm8) = decide (op = a ∧ imm8 = 0) := by
  have : (0xFFFF : Half) = wordOf 0xFF 0xFF := by decide
  simp only [OpcodeRow.matchesWord, this, wordOf_and]
  have h1 : ∀ b : Byte, b &&& 0xFF = b := by decide
  rw [h1, h1, Bool.eq_iff_iff]
  simp [wordOf_inj]

/-- The table with its match words taken apart into opcode and zero. -/
theorem opcodeTable_eq : opcodeTable =
    [⟨0xFF00, wordOf 0x10 0, fun b => .chkIntent b⟩, ⟨0xFF00, wordOf 0x11 0, fun b => .chkComp b⟩,
     ⟨0xFF00, wordOf 0x12 0, fun b => .chkEnc b⟩, ⟨0xFFFF, wordOf 0x20 0, fun _ => .getComp⟩,
     ⟨0xFF00, wordOf 0x21 0, fun b => .setComp b⟩, ⟨0xFFFF, wordOf 0x22 0, fun _ => .getEnc⟩,
     ⟨0xFF00, wordOf 0x23 0, fun b => .setEnc b⟩, ⟨0xFFFF, wordOf 0x24 0, fun _ => .getFrag⟩,
     ⟨0xFF00, wordOf 0x25 0, fun b => .setFrag b⟩, ⟨0xFFFF, wordOf 0x26 0, fun _ => .getAck⟩,
     ⟨0xFF00, wordOf 0x27 0, fun b => .setAck b⟩, ⟨0xFF00, wordOf 0x30 0, fun b => .construct b⟩,
     ⟨0xFFFF, wordOf 0x31 0, fun _ => .encode⟩, ⟨0xFFFF, wordOf 0x32 0, fun _ => .decode⟩,
     ⟨0xFFFF, wordOf 0x33 0, fun _ => .verify⟩] := rfl

/-- The command an opcode and an imm8 encode, if they encode one (R121, R123). -/
def commandOf (op imm8 : Byte) : Option Instr :=
  if op = 0x10 then some (.chkIntent imm8)
  else if op = 0x11 then some (.chkComp imm8)
  else if op = 0x12 then some (.chkEnc imm8)
  else if op = 0x20 ∧ imm8 = 0 then some .getComp
  else if op = 0x21 then some (.setComp imm8)
  else if op = 0x22 ∧ imm8 = 0 then some .getEnc
  else if op = 0x23 then some (.setEnc imm8)
  else if op = 0x24 ∧ imm8 = 0 then some .getFrag
  else if op = 0x25 then some (.setFrag imm8)
  else if op = 0x26 ∧ imm8 = 0 then some .getAck
  else if op = 0x27 then some (.setAck imm8)
  else if op = 0x30 then some (.construct imm8)
  else if op = 0x31 ∧ imm8 = 0 then some .encode
  else if op = 0x32 ∧ imm8 = 0 then some .decode
  else if op = 0x33 ∧ imm8 = 0 then some .verify
  else none

/-- What the decoder answers, by opcode and imm8. -/
theorem decode_wordOf (op imm8 : Byte) :
    decode (wordOf op imm8) =
      match commandOf op imm8 with
      | some i => .ok i
      | none => .error (rejection (wordOf op imm8)) := by
  have step : ∀ (c : Prop) [Decidable c] (r : OpcodeRow) (rs : List OpcodeRow) (i : Instr) (o : Option Instr),
      r.matchesWord (wordOf op imm8) = decide c → r.build imm8 = i →
      (rs.find? (fun r => r.matchesWord (wordOf op imm8))).map (fun r => r.build imm8) = o →
      ((r :: rs).find? (fun r => r.matchesWord (wordOf op imm8))).map (fun r => r.build imm8) =
        if c then some i else o := by
    intro c _ r rs i o h hi ho
    by_cases hc : c
    · simp [h, hc, hi]
    · simp [h, hc, ho]
  have key : (opcodeTable.find? (fun r => r.matchesWord (wordOf op imm8))).map (fun r => r.build imm8) =
      commandOf op imm8 := by
    rw [opcodeTable_eq, commandOf]
    iterate 3 refine step _ _ _ _ _ (matches_operand_row ..) rfl ?_
    iterate 4
      refine step _ _ _ _ _ (matches_plain_row ..) rfl ?_
      refine step _ _ _ _ _ (matches_operand_row ..) rfl ?_
    refine step _ _ _ _ _ (matches_operand_row ..) rfl ?_
    iterate 3 refine step _ _ _ _ _ (matches_plain_row ..) rfl ?_
    rfl
  rw [← key, decode]
  simp only [imm8Of_wordOf]
  cases opcodeTable.find? (fun r => r.matchesWord (wordOf op imm8)) <;> rfl

/-- A word decodes to a command exactly when its opcode and imm8 encode it. -/
theorem decode_ok_iff {op imm8 : Byte} {i : Instr} : decode (wordOf op imm8) = .ok i ↔ commandOf op imm8 = some i := by
  rw [decode_wordOf]
  cases commandOf op imm8 <;> simp

end Sys2Proof
end

