-- ==== Sys2Proof/Laws/Invariant.lean ====
section
/-! SUPPORT. Which shared operations keep the invariant (R30, R35 to R37, R60), one lemma each. -/

namespace Sys2Proof.Machine

variable {p : Params} {s : State}

theorem Memory.wf_empty (fill : Nat → Byte) (size : Nat) : Memory.wf fill size [] := Memory.wf_nil size

theorem State.resetOf_inv (p : Params) : (State.resetOf p).Inv p where
  intent_defined := by simp [State.resetOf, Params.intentDefined]
  payload_len_le := by simp [State.resetOf]
  status_known := by simp [State.resetOf, statusCodes]
  err_byte_zero := by simp [State.resetOf]
  err_version := by simp [State.resetOf]
  err_intent := by simp [State.resetOf]
  result_zero := by simp [State.resetOf]
  result_le := by simp [State.resetOf]
  wire_wf := Memory.wf_nil _
  payload_wf := Memory.wf_nil _

/-- A command that ends well keeps the invariant when its RESULT is a code or a boolean. -/
theorem State.Inv.finish {r : Byte} (h : s.Inv p) (hr : r ≤ 3) : (s.finish r).Inv p where
  intent_defined := h.intent_defined
  payload_len_le := h.payload_len_le
  status_known := by simp [statusCodes]
  err_byte_zero := by simp
  err_version := by simp
  err_intent := by simp
  result_zero := by simp
  result_le := hr
  wire_wf := h.wire_wf
  payload_wf := h.payload_wf

/-- A command that raises keeps the invariant when the byte the error carries is one that causes it (R243, R244). -/
theorem State.Inv.raise {e : ErrorOutcome} (h : s.Inv p)
    (hv : ∀ b, e = .unsupportedVersion b → b ≠ p.supportedVersion)
    (hi : ∀ b, e = .invalidIntent b → p.intentDefined b = false) : (s.raise e).Inv p where
  intent_defined := h.intent_defined
  payload_len_le := h.payload_len_le
  status_known := by cases e <;> simp [ErrorOutcome.code, statusCodes]
  err_byte_zero := by cases e <;> simp [ErrorOutcome.code, ErrorOutcome.info]
  err_version := by cases e <;> simp [ErrorOutcome.code, ErrorOutcome.info, hv]
  err_intent := by cases e <;> simp [ErrorOutcome.code, ErrorOutcome.info, hi]
  result_zero := by simp
  result_le := by simp
  wire_wf := h.wire_wf
  payload_wf := h.payload_wf

/-- Writing bytes inside W keeps the invariant. -/
theorem State.Inv.writeWs {a : Nat} {v : Bytes} (h : s.Inv p) (ha : a + v.length ≤ 10485828) :
    (s.writeWs p a v).Inv p where
  intent_defined := h.intent_defined
  payload_len_le := h.payload_len_le
  status_known := h.status_known
  err_byte_zero := h.err_byte_zero
  err_version := h.err_version
  err_intent := h.err_intent
  result_zero := h.result_zero
  result_le := h.result_le
  wire_wf := Memory.wf_writeBytes v h.wire_wf ha
  payload_wf := h.payload_wf

/-- Writing bytes inside P keeps the invariant. -/
theorem State.Inv.writePs {a : Nat} {v : Bytes} (h : s.Inv p) (ha : a + v.length ≤ 10485760) :
    (s.writePs p a v).Inv p where
  intent_defined := h.intent_defined
  payload_len_le := h.payload_len_le
  status_known := h.status_known
  err_byte_zero := h.err_byte_zero
  err_version := h.err_version
  err_intent := h.err_intent
  result_zero := h.result_zero
  result_le := h.result_le
  wire_wf := h.wire_wf
  payload_wf := Memory.wf_writeBytes v h.payload_wf ha

/-- The invariant says nothing of the registers it does not name. -/
theorem State.Inv.congr {t : State} (h : s.Inv p) (hi : p.intentDefined t.intent = true)
    (hl : t.payloadLen.toNat ≤ 10485760) (h1 : t.status = s.status) (h2 : t.errByte = s.errByte)
    (h3 : t.result = s.result) (h4 : t.wire = s.wire) (h5 : t.payload = s.payload) (h6 : t.resets = s.resets) :
    t.Inv p where
  intent_defined := hi
  payload_len_le := hl
  status_known := h1 ▸ h.status_known
  err_byte_zero := by rw [h1, h2]; exact h.err_byte_zero
  err_version := by rw [h1, h2]; exact h.err_version
  err_intent := by rw [h1, h2]; exact h.err_intent
  result_zero := by rw [h1, h3]; exact h.result_zero
  result_le := h3 ▸ h.result_le
  wire_wf := by unfold State.wireFill; rw [h4, h6]; exact h.wire_wf
  payload_wf := by unfold State.payloadFill; rw [h5, h6]; exact h.payload_wf

end Sys2Proof.Machine
end

