-- ==== Sys2Proof/Laws/PerInstr.lean ====
section
/-! SUPPORT. The families of statements made about every command: here that a command's word decodes to it (R120, R121). -/

namespace Sys2Proof.Laws.Encoding

/-- The word of a command decodes to that command, with its operand byte. -/
def Statement (i : Sys2Proof.Instr) : Prop := Sys2Proof.decode (Sys2Proof.encode i) = .ok i

theorem chkIntent (imm8 : Byte) : Statement (.chkIntent imm8) := Sys2Proof.decode_ok_iff.mpr rfl

theorem chkComp (imm8 : Byte) : Statement (.chkComp imm8) := Sys2Proof.decode_ok_iff.mpr rfl

theorem chkEnc (imm8 : Byte) : Statement (.chkEnc imm8) := Sys2Proof.decode_ok_iff.mpr rfl

theorem getComp : Statement .getComp := Sys2Proof.decode_ok_iff.mpr rfl

theorem setComp (imm8 : Byte) : Statement (.setComp imm8) := Sys2Proof.decode_ok_iff.mpr rfl

theorem getEnc : Statement .getEnc := Sys2Proof.decode_ok_iff.mpr rfl

theorem setEnc (imm8 : Byte) : Statement (.setEnc imm8) := Sys2Proof.decode_ok_iff.mpr rfl

theorem getFrag : Statement .getFrag := Sys2Proof.decode_ok_iff.mpr rfl

theorem setFrag (imm8 : Byte) : Statement (.setFrag imm8) := Sys2Proof.decode_ok_iff.mpr rfl

theorem getAck : Statement .getAck := Sys2Proof.decode_ok_iff.mpr rfl

theorem setAck (imm8 : Byte) : Statement (.setAck imm8) := Sys2Proof.decode_ok_iff.mpr rfl

theorem construct (imm8 : Byte) : Statement (.construct imm8) := Sys2Proof.decode_ok_iff.mpr rfl

theorem encode : Statement .encode := Sys2Proof.decode_ok_iff.mpr rfl

theorem decode : Statement .decode := Sys2Proof.decode_ok_iff.mpr rfl

theorem verify : Statement .verify := Sys2Proof.decode_ok_iff.mpr rfl

end Sys2Proof.Laws.Encoding
end

