-- ==== Sys2Proof/Laws/Exec.lean ====
section
/-! SUPPORT. The step and the meanings in terms of the shared operations, so that no proof unfolds `exec`, `step` or the
host port; and that every command goes on (`93_implementation_defined.md`, end of part 1). -/

namespace Sys2Proof.Machine

theorem exec_chkIntent (b : Byte) (s : State) :
    exec (.chkIntent b) s = .next (s.finish (boolByte (Config.marsh.intentDefined b))) := by
  simp only [exec, execChkIntent, State.answerCheck, intentFromCode]
  cases Config.marsh.intentDefined b <;> rfl

theorem exec_chkComp (b : Byte) (s : State) :
    exec (.chkComp b) s = .next (s.finish (boolByte (decide (b ≤ 3)))) := by
  simp only [exec, execChkComp, State.answerCheck, compFromCode]
  by_cases h : b ≤ 3
  · rw [if_pos h, decide_eq_true h]; rfl
  · rw [if_neg h, decide_eq_false h]; rfl

theorem exec_chkEnc (b : Byte) (s : State) :
    exec (.chkEnc b) s = .next (s.finish (boolByte (decide (b ≤ 2)))) := by
  simp only [exec, execChkEnc, State.answerCheck, encFromCode]
  by_cases h : b ≤ 2
  · rw [if_pos h, decide_eq_true h]; rfl
  · rw [if_neg h, decide_eq_false h]; rfl

theorem exec_getComp (s : State) : exec .getComp s = .next (s.finish (Flags.getComp s.flags)) := rfl
theorem exec_getEnc (s : State) : exec .getEnc s = .next (s.finish (Flags.getEnc s.flags)) := rfl
theorem exec_getFrag (s : State) : exec .getFrag s = .next (s.finish (Flags.getFrag s.flags)) := rfl
theorem exec_getAck (s : State) : exec .getAck s = .next (s.finish (Flags.getAck s.flags)) := rfl

theorem exec_setComp (b : Byte) (s : State) :
    exec (.setComp b) s = .next (s.updateFlags (decide (b ≤ 3)) (Flags.setComp s.flags b)) := rfl
theorem exec_setEnc (b : Byte) (s : State) :
    exec (.setEnc b) s = .next (s.updateFlags (decide (b ≤ 2)) (Flags.setEnc s.flags b)) := rfl
theorem exec_setFrag (b : Byte) (s : State) :
    exec (.setFrag b) s = .next (s.updateFlags (decide (b ≤ 1)) (Flags.setFrag s.flags b)) := rfl
theorem exec_setAck (b : Byte) (s : State) :
    exec (.setAck b) s = .next (s.updateFlags (decide (b ≤ 1)) (Flags.setAck s.flags b)) := rfl

theorem exec_construct (b : Byte) (s : State) :
    exec (.construct b) s = .next (constructWith Config.marsh b s) := rfl
theorem exec_encode (s : State) : exec .encode s = .next (encodeWith Config.marsh s) := rfl
theorem exec_decode (s : State) : exec .decode s = .next (decodeWith Config.marsh s) := rfl
theorem exec_verify (s : State) : exec .verify s = .next (verifyWith Config.marsh s) := rfl

/-- What a setter can do (R122, R172). -/
theorem State.updateFlags_cases (d : Bool) (f : Byte) (s : State) :
    (d = true ∧ s.updateFlags d f = { s with flags := f, status := 0x00, errByte := 0x00, result := 0x00 }) ∨
    (d = false ∧ s.updateFlags d f = s.raise .refused) := by
  cases d
  · exact .inr ⟨rfl, rfl⟩
  · exact .inl ⟨rfl, rfl⟩

/-- Getters answer at most 3 (R37). -/
theorem Flags.getComp_le (f : Byte) : Flags.getComp f ≤ 3 := by revert f; decide
theorem Flags.getEnc_le (f : Byte) : Flags.getEnc f ≤ 3 := by revert f; decide
theorem Flags.getFrag_le (f : Byte) : Flags.getFrag f ≤ 3 := by revert f; decide
theorem Flags.getAck_le (f : Byte) : Flags.getAck f ≤ 3 := by revert f; decide

theorem boolByte_le (b : Bool) : boolByte b ≤ 3 := by cases b <;> decide

/-- A word the host is about to write to CMD is the command issued by the next step, at the state as it is (R34). -/
theorem step_withFetchWord (s : State) (w : Nat) (hw : w < 65536) :
    step (s.withFetchWord 16 w) = issueCommand (BitVec.ofNat 16 w) s := by
  have h : w % 2 ^ 16 = w := Nat.mod_eq_of_lt hw
  rw [State.withFetchWord, h]
  rfl

theorem issueCommand_ok {w : Half} {i : Instr} (s : State) (h : decode w = .ok i) : issueCommand w s = exec i s := by
  simp [issueCommand, h]

theorem issueCommand_error {w : Half} {e : DecodeError} (s : State) (h : decode w = .error e) :
    issueCommand w s = .next (s.raise .refused) := by
  simp [issueCommand, h]

/-- The host's writing a command's word is that command's step, at the state as it is (R34). -/
theorem step_issue (s : State) (op imm8 : Byte) {i : Instr} (h : commandOf op imm8 = some i) :
    step (s.withFetchWord 16 (op.toNat * 256 + imm8.toNat)) = exec i s := by
  have := op.isLt
  have := imm8.isLt
  rw [step_withFetchWord _ _ (by omega), wordOf_eq_ofNat]
  exact issueCommand_ok s (decode_ok_iff.mpr h)

/-- The host's writing a reserved word is refused (R123, R280). -/
theorem step_reserved (s : State) (op imm8 : Byte) (h : commandOf op imm8 = none) :
    step (s.withFetchWord 16 (op.toNat * 256 + imm8.toNat)) = .next (s.raise .refused) := by
  have := op.isLt
  have := imm8.isLt
  rw [step_withFetchWord _ _ (by omega), wordOf_eq_ofNat]
  refine issueCommand_error (e := rejection (wordOf op imm8)) s ?_
  rw [decode_wordOf, h]

/-- The step on a pending action (R73). -/
theorem step_cons {s : State} {act : HostAction} {rest : List HostAction} (h : s.pending = act :: rest) :
    step s = hostAct act (s.takeUp rest) := by
  simp [step, nextAction, h]

end Sys2Proof.Machine
end

