-- ==== Sys2Proof/Tests/Slice0.lean ====
section
/-! SUPPORT. Tests of the model: words written out from the encodings of R121, ill-formed terms that the checks refuse,
vectors of `95_test_vectors.md`, and for each obligation with hypotheses a state and operands that meet them.

Vectors with concrete wire bytes run on that file's test choice T0 (its section 1), to which the commands are applied
directly; the machine itself is never T0. -/

namespace Sys2Proof.Tests

open Sys2Proof Sys2Proof.Machine

/-! ### The test choice T0 -/

/-- Byte i of XORFOLD32: the exclusive-or of the bytes whose position is i modulo 32, the list starting at position j. -/
def xorAt (i : Nat) : Bytes → Nat → Byte
  | [], _ => 0x00
  | b :: m, j => if j % 32 = i then b ^^^ xorAt i m (j + 1) else xorAt i m (j + 1)

/-- T0: version 0x01, intents 0x01 and 0x02, flags 0x00, XORFOLD32, one fixed time; memories start as zeros. -/
def t0 : Params where
  supportedVersion := 0x01
  otherIntent := fun b => b == 0x02
  defaultFlags := 0x00
  digest := fun m => Vector.ofFn (fun i : Fin 32 => xorAt i m 0)
  now := fun _ => 0x0000018BCFE56800
  wireFill := fun _ _ => 0x00
  payloadFill := fun _ _ => 0x00

/-- XORFOLD32 of 01 02 03 (section 1). -/
theorem test_xorfold_short :
    (t0.digest [0x01, 0x02, 0x03]).toList = [0x01, 0x02, 0x03] ++ List.replicate 29 0x00 := by decide

theorem xorAt_append (i : Nat) (a b : Bytes) : ∀ j, xorAt i (a ++ b) j = xorAt i a j ^^^ xorAt i b (j + a.length) := by
  induction a with
  | nil => intro j; simp [xorAt]
  | cons x a ih =>
    intro j
    simp only [List.cons_append, xorAt, ih, List.length_cons, Nat.add_assoc, Nat.add_comm 1]
    split
    · rw [BitVec.xor_assoc]
    · rfl

/-- XORFOLD32 has the sensitivity of R206, so that hypothesis can be met. -/
theorem witness_hsens_t0 : HSens t0.digest := by
  intro before after x y hne h
  have hi := congrArg (fun d : Hash => d[before.length % 32]'(Nat.mod_lt _ (by decide))) h
  simp only [t0, Vector.getElem_ofFn, xorAt_append, xorAt, Nat.zero_add, if_true] at hi
  exact hne (by simpa using hi)

/-! ### Words written out from R121 -/

theorem test_decode_chkIntent : decode 0b0001000011101110 = .ok (.chkIntent 0xEE) := by decide
theorem test_decode_chkComp : decode 0b0001000111111111 = .ok (.chkComp 0xFF) := by decide
theorem test_decode_chkEnc : decode 0b0001001000000011 = .ok (.chkEnc 0x03) := by decide
theorem test_decode_getComp : decode 0b0010000000000000 = .ok .getComp := by decide
theorem test_decode_setComp : decode 0b0010000100000011 = .ok (.setComp 0x03) := by decide
theorem test_decode_getEnc : decode 0b0010001000000000 = .ok .getEnc := by decide
theorem test_decode_setEnc : decode 0b0010001100000010 = .ok (.setEnc 0x02) := by decide
theorem test_decode_getFrag : decode 0b0010010000000000 = .ok .getFrag := by decide
theorem test_decode_setFrag : decode 0b0010010100000001 = .ok (.setFrag 0x01) := by decide
theorem test_decode_getAck : decode 0b0010011000000000 = .ok .getAck := by decide
theorem test_decode_setAck : decode 0b0010011100000001 = .ok (.setAck 0x01) := by decide
theorem test_decode_construct : decode 0b0011000000000010 = .ok (.construct 0x02) := by decide
theorem test_decode_encode : decode 0b0011000100000000 = .ok .encode := by decide
theorem test_decode_decode : decode 0b0011001000000000 = .ok .decode := by decide
theorem test_decode_verify : decode 0b0011001100000000 = .ok .verify := by decide

/-- The reserved words named in section 3.3, with their reasons (R123). -/
theorem test_decode_reserved :
    decode 0x2001 = .error (.reservedOperand 0x20 0x01) ∧ decode 0x0000 = .error (.reservedOpcode 0x00) ∧
    decode 0x1300 = .error (.reservedOpcode 0x13) ∧ decode 0x2800 = .error (.reservedOpcode 0x28) ∧
    decode 0x3400 = .error (.reservedOpcode 0x34) ∧ decode 0xFFFF = .error (.reservedOpcode 0xFF) := by decide

/-- No two rows of the opcode table share a word: where both masks apply, the patterns differ (R121). -/
theorem test_rows_disjoint :
    opcodeTable.Pairwise (fun r q => r.pattern &&& (r.mask &&& q.mask) ≠ q.pattern &&& (r.mask &&& q.mask)) := by decide

/-- The host numbers a row's bits as one 16-bit word; a longer number is no command word. -/
theorem test_decodeTableWord :
    decodeTableWord 16 0x2302 = some (.setEnc 0x02) ∧ decodeTableWord 16 0x3301 = none ∧
    decodeTableWord 24 0x12302 = none := by decide

/-! ### Ill-formed terms -/

theorem test_ill_setComp : (Instr.setComp 0x04).wellFormed t0 = false := by decide
theorem test_ill_setEnc : (Instr.setEnc 0x03).wellFormed t0 = false := by decide
theorem test_ill_setFrag : (Instr.setFrag 0x02).wellFormed t0 = false := by decide
theorem test_ill_setAck : (Instr.setAck 0x02).wellFormed t0 = false := by decide
theorem test_ill_construct : (Instr.construct 0xEE).wellFormed t0 = false := by decide
theorem test_ill_register :
    (HostAction.readReg 0x09).wellFormed = false ∧ (HostAction.readReg 0x0F).wellFormed = false ∧
    (HostAction.readReg 0x17).wellFormed = false ∧ (HostAction.writeReg 0x0A (.byte 0x00)).wellFormed = false := by decide
theorem test_ill_width :
    (HostAction.writeReg 0x10 (.byte 0x33)).wellFormed = false ∧
    (HostAction.writeReg 0x05 (.double 7)).wellFormed = false := by decide
theorem test_ill_address :
    (HostAction.readWire 10485828).wellFormed = false ∧ (HostAction.writeWire 10485828 0x00).wellFormed = false ∧
    (HostAction.readPayload 10485760).wellFormed = false ∧
    (HostAction.writePayload 10485760 0x00).wellFormed = false := by decide
theorem test_well_address :
    (HostAction.readWire 10485827).wellFormed = true ∧ (HostAction.writePayload 10485759 0x00).wellFormed = true := by
  decide

/-! ### Vectors of `95_test_vectors.md` -/

/-- V4, V3 under T0 and V1 (any instance). -/
theorem test_chkIntent_vectors :
    intentFromCode t0 0xEE = none ∧ intentFromCode t0 0x00 = none ∧ intentFromCode t0 0x02 = some 0x02 ∧
    intentFromCode Config.marsh 0x01 = some 0x01 := by decide

/-- V6 and V8: the whole byte is tested, not its low bits. -/
theorem test_chkComp_vector : compFromCode 0x08 = none ∧ compFromCode 0x03 = some 0x03 := by decide
theorem test_chkEnc_vector : encFromCode 0x04 = none ∧ encFromCode 0x03 = none ∧ encFromCode 0x02 = some 0x02 := by decide

/-- V11, V12, V20. -/
theorem test_getComp_vectors :
    Flags.getComp 0x6A = 2 ∧ Flags.getComp 0xFF = 0 ∧ Flags.getComp 0xA5 = 0 ∧ Flags.getComp 0x4B = 3 := by decide
/-- V18, V21, V19. -/
theorem test_getEnc_vectors : Flags.getEnc 0x72 = 2 ∧ Flags.getEnc 0x3B = 0 ∧ Flags.getEnc 0x4B = 1 := by decide
/-- V20, V19. -/
theorem test_getFrag_vectors : Flags.getFrag 0xA5 = 1 ∧ Flags.getFrag 0x4B = 0 := by decide
theorem test_getAck_vectors : Flags.getAck 0xA5 = 0 ∧ Flags.getAck 0x4B = 1 := by decide
/-- V27, V26. -/
theorem test_setComp_vectors : Flags.setComp 0x6D 2 = 0x6A ∧ Flags.setComp 0x80 3 = 0x83 := by decide
/-- V31, V30. -/
theorem test_setEnc_vectors : Flags.setEnc 0x87 1 = 0x8F ∧ Flags.setEnc 0x18 1 = 0x08 := by decide
/-- V34, V33. -/
theorem test_setFrag_vectors : Flags.setFrag 0x9F 1 = 0xBF ∧ Flags.setFrag 0xFF 0 = 0xDF := by decide
/-- V37, V36. -/
theorem test_setAck_vectors : Flags.setAck 0xBF 1 = 0xFF ∧ Flags.setAck 0xFF 0 = 0xBF := by decide

/-- V38, V39: refused, FLAGS unchanged. -/
theorem test_setters_refused :
    exec (.setComp 0x04) { State.reset with flags := 0x1F } =
      .next { State.reset with flags := 0x1F, status := 0xFF } ∧
    exec (.setEnc 0x03) { State.reset with flags := 0x00 } = .next { State.reset with flags := 0x00, status := 0xFF } :=
  ⟨rfl, rfl⟩

/-- V56: the header builder. -/
theorem test_hdr_vector :
    hdr (0x01, ⟨#[0x00, 0x01, 0x02, 0x03, 0x04, 0x05, 0x06, 0x07, 0x08, 0x09, 0x0A, 0x0B, 0x0C, 0x0D, 0x0E, 0x0F], rfl⟩,
      0x01, 0x80, 0x00, 0x01020304, 0x00A00000, 0x0102030405060708) =
    [0x01, 0x00, 0x01, 0x02, 0x03, 0x04, 0x05, 0x06, 0x07, 0x08, 0x09, 0x0A, 0x0B, 0x0C, 0x0D, 0x0E, 0x0F, 0x01, 0x80,
      0x00, 0x01, 0x02, 0x03, 0x04, 0x00, 0xA0, 0x00, 0x00, 0x01, 0x02, 0x03, 0x04, 0x05, 0x06, 0x07, 0x08] := by decide

/-- V66 with V60: CONSTRUCT overwrites PRIORITY and samples NOW once. -/
theorem test_construct_vector :
    let s := constructWith t0 0x02 { State.resetOf t0 with argLen := 3, priority := 0x10 }
    s.intent = 0x02 ∧ s.priority = 0x80 ∧ s.payloadLen = 3 ∧ s.timestamp = 0x0000018BCFE56800 ∧ s.nowDraws = 1 := by decide

/-- V61, V62, V65: the length bound, and that refusal comes first. -/
theorem test_construct_bounds :
    (constructWith t0 0x01 { State.resetOf t0 with argLen := 10485760 }).status = 0x00 ∧
    (constructWith t0 0x01 { State.resetOf t0 with argLen := 10485761 }).status = 0x07 ∧
    (constructWith t0 0xEE { State.resetOf t0 with argLen := 0xFFFFFFFF }).status = 0xFF := by decide

/-- The state of V42 before its ENCODE. -/
def v42 : State :=
  { State.resetOf t0 with
    sessionId := ⟨#[0xA0, 0xA1, 0xA2, 0xA3, 0xA4, 0xA5, 0xA6, 0xA7, 0xA8, 0xA9, 0xAA, 0xAB, 0xAC, 0xAD, 0xAE, 0xAF], rfl⟩
    intent := 0x02, priority := 0xC0, flags := 0x72, sequence := 7, payloadLen := 3
    timestamp := 0x0000018BCFE56800
    payload := [(0, 0x61), (1, 0x62), (2, 0x63)] }

/-- The last 32 of the 71 bytes of V42. -/
def v42Hash : Bytes :=
  [0xCE, 0x45, 0xC9, 0xA2, 0xC2, 0xC6, 0xC6, 0xA6, 0xA7, 0xA8, 0xA9, 0xAA, 0xAB, 0xAC, 0xAD, 0xAE, 0xAF, 0x02, 0xC0, 0x72,
    0x00, 0x00, 0x00, 0x07, 0x00, 0x00, 0x00, 0x03, 0x00, 0x00, 0x01, 0x8B]

/-- The 71 bytes of V42. -/
def v42Wire : Bytes :=
  [0x01, 0xA0, 0xA1, 0xA2, 0xA3, 0xA4, 0xA5, 0xA6, 0xA7, 0xA8, 0xA9, 0xAA, 0xAB, 0xAC, 0xAD, 0xAE, 0xAF, 0x02, 0xC0, 0x72,
    0x00, 0x00, 0x00, 0x07, 0x00, 0x00, 0x00, 0x03, 0x00, 0x00, 0x01, 0x8B, 0xCF, 0xE5, 0x68, 0x00, 0x61, 0x62, 0x63] ++
  v42Hash

/-- V42: the bytes ENCODE leaves in W. -/
theorem test_encode_v42_bytes : (encodeWith t0 v42).readWs t0 0 71 = v42Wire := by decide +kernel

/-- V42: WIRE_LEN, HASH and STATUS. -/
theorem test_encode_v42_registers :
    (encodeWith t0 v42).wireLen = 71 ∧ (encodeWith t0 v42).hash.toList = v42Hash ∧ (encodeWith t0 v42).status = 0x00 := by
  decide +kernel

/-- The reset state of T0 with the 71 bytes of V42 in W. -/
def received : State := { (State.resetOf t0).writeWs t0 0 v42Wire with wireLen := 71 }

/-- V92 to V95 as one chain: four faults at once, repaired one after another. -/
theorem test_decode_priority_chain :
    let s0 := (((received.writeWs t0 0 [0x09]).writeWs t0 17 [0xEE]).writeWs t0 27 [0x09]).writeWs t0 70 [0x8A]
    let s1 := s0.writeWs t0 0 [0x01]
    let s2 := s1.writeWs t0 17 [0x02]
    let s3 := s2.writeWs t0 27 [0x03]
    ((decodeWith t0 s0).status = 0x03 ∧ (decodeWith t0 s0).errByte = 0x09) ∧
    ((decodeWith t0 s1).status = 0x04 ∧ (decodeWith t0 s1).errByte = 0xEE) ∧
    (decodeWith t0 s2).status = 0x05 ∧ (decodeWith t0 s3).status = 0x06 := by decide +kernel

/-- V91: success, with the registers and the payload of V42. -/
theorem test_decode_v91 :
    let s := decodeWith t0 received
    s.status = 0x00 ∧ s.sessionId = v42.sessionId ∧ s.intent = 0x02 ∧ s.priority = 0xC0 ∧ s.flags = 0x72 ∧
    s.sequence = 7 ∧ s.payloadLen = 3 ∧ s.timestamp = 0x0000018BCFE56800 ∧ s.hash.toList = v42Hash ∧
    s.payload = [(0, 0x61), (1, 0x62), (2, 0x63)] := by decide +kernel

/-- V102: after V42's ENCODE, another sequence number no longer has the stored hash. -/
theorem test_verify_v102 :
    (verifyWith t0 { v42 with hash := ⟨v42Hash.toArray, rfl⟩ }).result = 0x01 ∧
    (verifyWith t0 { v42 with hash := ⟨v42Hash.toArray, rfl⟩, sequence := 8 }).result = 0x00 := by decide +kernel

/-- P6: a host write of VERSION and of PAYLOAD_LEN is ignored. -/
theorem test_host_read_only :
    step { State.reset with pending := [.writeReg 0x00 (.byte 0x07), .writeReg 0x06 (.word 5)] } =
      .next { State.reset with pending := [.writeReg 0x06 (.word 5)] } := rfl

/-- R68: writing the byte an address already reads as leaves the memory as it was. -/
theorem test_memory_write_fill : Memory.write (fun _ => 0x00) 5 0x00 [(5, 0x61), (6, 0x62)] = [(6, 0x62)] := by decide

/-- Memories are equal when their bytes are, in whatever order they were written. -/
theorem test_memory_canonical :
    Memory.writeBytes (fun _ => 0x00) [0x61, 0x00, 0x63] 4 [] =
      Memory.write (fun _ => 0x00) 4 0x61 (Memory.write (fun _ => 0x00) 6 0x63 []) := by decide

/-! ### Witnesses: the obligations' hypotheses can be met -/

/-- `ResetActionRestoresEveryRegister`. -/
theorem witness_reset_pending : ({ State.reset with pending := [.reset] } : State).pending = .reset :: [] := rfl

/-- `EveryStepKeepsTheInvariant`, `EncodeNeverFailsAndSizesExactly`, `DecodeAfterEncodeGivesThePacketBack`. -/
theorem witness_inv : State.reset.Inv Config.marsh ∧ step State.reset = .next State.reset :=
  ⟨State.resetOf_inv Config.marsh, rfl⟩

/-- `EveryStepKeepsTheInvariant`, on a step that runs a command. -/
theorem witness_inv_command :
    (State.reset.withFetchWord 16 0x3100).Inv Config.marsh ∧
      step (State.reset.withFetchWord 16 0x3100) = .next (encodeWith Config.marsh State.reset) :=
  ⟨(State.resetOf_inv Config.marsh).congr rfl (by decide) rfl rfl rfl rfl rfl rfl,
    step_issue State.reset 0x31 0x00 (i := .encode) (by decide)⟩

/-- `EncodeOfDecodeIsTheWord`, `StepRunsTheCommandWrittenToCmd`. -/
theorem witness_decode :
    ({ State.reset with pending := [.writeReg 0x10 (.half 0x2103)] } : State).pending = [.writeReg 0x10 (.half 0x2103)] ∧
      decode 0x2103 = .ok (.setComp 0x03) := ⟨rfl, by decide⟩

/-- `ReservedWordsAreRefused`: both ways of being reserved. -/
theorem witness_reserved :
    (0x13 : Byte) ∉ [(0x10 : Byte), 0x11, 0x12, 0x20, 0x21, 0x22, 0x23, 0x24, 0x25, 0x26, 0x27, 0x30, 0x31, 0x32, 0x33] ∧
    (0x33 : Byte) ∈ [(0x20 : Byte), 0x22, 0x24, 0x26, 0x31, 0x32, 0x33] ∧ (0x01 : Byte) ≠ 0x00 := by decide

/-- `IdleMachineStaysAsItIs`. -/
theorem witness_idle : State.reset.pending = [] := rfl

/-- `EnumGettersReadTheirOwnBitsWithFallback`, `BooleanGettersReadTheirOwnBit`: both ends of k. -/
theorem witness_getters : (0 < 1 ∧ 1 < 256) ∧ (0 < 255 ∧ 255 < 256) := by decide

/-- `EnumSettersWriteTheirOwnBitsOnly`, `BooleanSettersWriteTheirOwnBitOnly`, at the values where the clauses meet. -/
theorem witness_setters :
    ((0x03 : Byte).toNat ≤ 3 ∧ 3 < (0x04 : Byte).toNat) ∧ ((0x02 : Byte).toNat ≤ 2 ∧ 2 < (0x03 : Byte).toNat) ∧
      ((0x01 : Byte).toNat ≤ 1 ∧ 1 < (0x02 : Byte).toNat) := by decide

/-- `FlagFunctionsAreIndependentFields`, `SettersInAnyOrderGiveOneFlagByte`. -/
theorem witness_flag_operands :
    ((3 : Byte) ≤ 3 ∧ (2 : Byte) ≤ 2 ∧ (1 : Byte) ≤ 1) ∧
      [Instr.setAck 1, .setFrag 1, .setEnc 2, .setComp 3].Perm [.setComp 3, .setEnc 2, .setFrag 1, .setAck 1] := by decide

/-- `ReservedFlagBitIsNeverInterpreted`. -/
theorem witness_flag_commands :
    Instr.setEnc 0x02 ∈ [Instr.chkIntent 0x02, .chkComp 0x02, .chkEnc 0x02, .getComp, .setComp 0x02, .getEnc, .setEnc 0x02,
      .getFrag, .setFrag 0x02, .getAck, .setAck 0x02] := by decide

/-- The reset state with its own encoding in W. -/
def encoded : State := encodeWith Config.marsh State.reset

/-- An encoding passes all the checks of DECODE. -/
theorem encoded_checks : decodeChecks Config.marsh encoded = .ok 0 :=
  decodeChecks_encodeWith Config.marsh State.reset rfl (by decide)

theorem add_one_ne (b : Byte) : b + 1 ≠ b := by revert b; decide

/-- `DecodeChecksTheLengthFirst`: both clauses, at their bounds. -/
theorem witness_decode_length :
    ({ State.reset with wireLen := 67 } : State).wireLen.toNat < 68 ∧
      10485828 < ({ State.reset with wireLen := 10485829 } : State).wireLen.toNat := by decide

/-- A received buffer of 68 bytes whose first byte is not the supported version. -/
def otherVersion : State :=
  { State.reset.writeWs Config.marsh 0 [Config.supportedVersion + 1] with wireLen := 68 }

/-- `DecodeRejectsAnotherVersion`. -/
theorem witness_decode_version :
    68 ≤ otherVersion.wireLen.toNat ∧ otherVersion.wireLen.toNat ≤ 10485828 ∧
      otherVersion.readW Config.marsh 0 ≠ Config.supportedVersion := by
  refine ⟨by decide, by decide, ?_⟩
  have : otherVersion.readW Config.marsh 0 = Config.supportedVersion + 1 :=
    (State.readW_writeWs Config.marsh State.reset 0 [Config.supportedVersion + 1] 0).trans (by simp)
  rw [this]
  exact add_one_ne _

/-- `DecodeRejectsAnUndefinedIntent`, `DecodeLoadsThePacketRaw`: the hypotheses hold of an encoding. -/
theorem witness_decode_success :
    encoded.wireLen.toNat = 68 + 0 ∧ encoded.wireLen.toNat ≤ 10485828 ∧
      encoded.readW Config.marsh 0 = Config.supportedVersion ∧
      Config.marsh.intentDefined (encoded.readW Config.marsh 17) = true ∧
      unbe ((List.range 4).map (fun i => encoded.readW Config.marsh (24 + i))) = 0 ∧
      (Config.digest ((List.range (36 + 0)).map (fun a => encoded.readW Config.marsh a))).toList =
        (List.range 32).map (fun i => encoded.readW Config.marsh (36 + 0 + i)) := by
  obtain ⟨h1, h2, h3, h4, h5, h6, h7⟩ := (decodeChecks_ok_iff Config.marsh encoded 0).mp encoded_checks
  rw [State.wireHash_eq_carriedHash_iff, State.readWs_eq_map, State.readWs_eq_map] at h7
  rw [State.declaredLen_eq_map] at h5
  exact ⟨h6.symm, h2, h3, h4, h5.symm, by simpa using h7⟩

/-- The same buffer with WIRE_LEN one too long. -/
def lengthened : State := { encoded with wireLen := 69 }

theorem readW_lengthened (a : Nat) : lengthened.readW Config.marsh a = encoded.readW Config.marsh a := by
  simp only [State.readW, State.wireFill, lengthened]

theorem wireLen_lengthened : lengthened.wireLen.toNat = 69 := by rw [lengthened]; rfl

/-- A declared length of zero, byte by byte. -/
theorem decl_bytes {f : Nat → Byte} (h : unbe ((List.range 4).map (fun i => f (24 + i))) = 0) :
    (f 24).toNat = 0 ∧ (f 25).toNat = 0 ∧ (f 26).toNat = 0 ∧ (f 27).toNat = 0 := by
  simp only [List.range_succ_eq_map, List.range_zero, List.map, unbe, List.foldl] at h
  simp at h
  simp [h]

/-- `DecodeRejectsALengthMismatch`. -/
theorem witness_decode_mismatch :
    68 ≤ lengthened.wireLen.toNat ∧ lengthened.wireLen.toNat ≤ 10485828 ∧
      lengthened.readW Config.marsh 0 = Config.supportedVersion ∧
      Config.marsh.intentDefined (lengthened.readW Config.marsh 17) = true ∧
      36 + ((lengthened.readW Config.marsh 24).toNat * 16777216 + (lengthened.readW Config.marsh 25).toNat * 65536 +
        (lengthened.readW Config.marsh 26).toNat * 256 + (lengthened.readW Config.marsh 27).toNat) + 32 ≠
          lengthened.wireLen.toNat := by
  obtain ⟨-, -, h3, h4, h5, -⟩ := witness_decode_success
  rw [wireLen_lengthened]
  simp only [readW_lengthened]
  have hm := decl_bytes h5
  refine ⟨by omega, by omega, h3, h4, ?_⟩
  omega

/-- `encoded` with the byte at k of W changed. -/
def altered (k : Nat) : State := encoded.writeWs Config.marsh k [encoded.readW Config.marsh k + 1]

/-- One byte of W written. -/
theorem readW_put (s : State) (k a : Nat) (x : Byte) :
    (s.writeWs Config.marsh k [x]).readW Config.marsh a = if a = k then x else s.readW Config.marsh a := by
  rw [State.readW_writeWs]
  by_cases h : a = k
  · subst h; simp
  · rw [dif_neg (by simp; omega), if_neg h]

theorem readW_altered (k a : Nat) :
    (altered k).readW Config.marsh a =
      if a = k then encoded.readW Config.marsh k + 1 else encoded.readW Config.marsh a := readW_put ..

/-- `DecodeRejectsAWrongHash`: the same buffer with the first byte of the hash field changed. -/
theorem witness_decode_hash :
    (altered 36).wireLen.toNat = 68 + 0 ∧ (altered 36).wireLen.toNat ≤ 10485828 ∧
      (altered 36).readW Config.marsh 0 = Config.supportedVersion ∧
      Config.marsh.intentDefined ((altered 36).readW Config.marsh 17) = true ∧
      unbe ((List.range 4).map (fun i => (altered 36).readW Config.marsh (24 + i))) = 0 ∧
      (Config.digest ((List.range (36 + 0)).map (fun a => (altered 36).readW Config.marsh a))).toList ≠
        (List.range 32).map (fun i => (altered 36).readW Config.marsh (36 + 0 + i)) := by
  obtain ⟨h1, h2, h3, h4, h5, h6⟩ := witness_decode_success
  have below : ∀ a, a < 36 → (altered 36).readW Config.marsh a = encoded.readW Config.marsh a := fun a h => by
    rw [readW_altered, if_neg (by omega)]
  have hl : (altered 36).wireLen = encoded.wireLen := rfl
  refine ⟨hl ▸ h1, hl ▸ h2, by rw [below 0 (by decide)]; exact h3, by rw [below 17 (by decide)]; exact h4, ?_, ?_⟩
  · rw [← h5]
    exact congrArg unbe (List.map_congr_left (fun i hi => below _ (by
      have := List.mem_range.mp hi
      omega)))
  · rw [List.map_congr_left (g := fun a => encoded.readW Config.marsh a) (fun i hi => below _ (by simpa using hi)), h6]
    intro h
    have := congrArg (fun l => l[0]?) h
    simp [readW_altered] at this

/-- `DecodeNeverReadsAtOrAboveWireLen`: another W that agrees below WIRE_LEN. -/
theorem witness_decode_above :
    ∀ a, a < encoded.wireLen.toNat →
      ({ encoded with wire := (altered 68).wire } : State).readW Config.marsh a = encoded.readW Config.marsh a := by
  intro a h
  have hl : encoded.wireLen.toNat = 68 := witness_decode_success.1
  have : ({ encoded with wire := (altered 68).wire } : State).readW Config.marsh a = (altered 68).readW Config.marsh a := rfl
  rw [this, readW_altered, if_neg (by omega)]

/-- `FailingDecodeReadsOnlyTheBytesOfItsChecks`: a state for each clause. -/
theorem witness_decode_failing :
    (decodeWith Config.marsh State.reset).status = 0x01 ∧ (decodeWith Config.marsh otherVersion).status = 0x03 ∧
      (decodeWith Config.marsh lengthened).status = 0x05 := by
  refine ⟨rfl, ?_, ?_⟩
  · obtain ⟨h1, h2, h3⟩ := witness_decode_version
    have : decodeChecks Config.marsh otherVersion = .error (.unsupportedVersion (otherVersion.readW Config.marsh 0)) := by
      rw [decodeChecks_eq, if_neg (by omega), if_neg (by omega)]
      exact if_pos h3
    rw [decodeWith, this]
    rfl
  · obtain ⟨h1, h2, h3, h4, -⟩ := witness_decode_mismatch
    obtain ⟨-, -, -, -, h6, -⟩ := (decodeChecks_ok_iff Config.marsh encoded 0).mp encoded_checks
    have hd : lengthened.declaredLen Config.marsh = 0 := h6.symm
    have : decodeChecks Config.marsh lengthened = .error .lengthMismatch := by
      rw [decodeChecks_eq, if_neg (by omega), if_neg (by omega), if_neg (show ¬(lengthened.readW Config.marsh 0 ≠ Config.marsh.supportedVersion) from fun h => h h3), if_neg (by rw [h4]; decide),
        if_pos (by rw [hd, wireLen_lengthened]; decide)]
    rw [decodeWith, this]
    rfl

/-- The same, with another W that has the bytes a clause names: one byte k of W changed, k being 17 for the clause of check 3
and 5 for the others. -/
theorem witness_decode_failing_same (s : State) (k : Nat) :
    let m := (s.writeWs Config.marsh k [s.readW Config.marsh k + 1]).wire
    (∀ a, a ≠ k → ({ s with wire := m } : State).readW Config.marsh a = s.readW Config.marsh a) ∧
      ({ s with wire := m } : State).readW Config.marsh k ≠ s.readW Config.marsh k := by
  intro m
  have hm : ∀ a, ({ s with wire := m } : State).readW Config.marsh a =
      (s.writeWs Config.marsh k [s.readW Config.marsh k + 1]).readW Config.marsh a := fun _ => rfl
  simp only [hm, readW_put]
  exact ⟨fun a h => if_neg h, by simp⟩

/-- `DecodeAfterEncodeGivesThePacketBack`: the host has overwritten a register and P between ENCODE and DECODE. -/
theorem witness_host_between (m : Memory) :
    let t' : State := { encoded with priority := encoded.priority + 1, payload := m }
    exec .encode State.reset = .next encoded ∧ t'.wire = encoded.wire ∧ t'.wireLen = encoded.wireLen ∧
      t'.resets = encoded.resets ∧ t'.priority ≠ encoded.priority := ⟨rfl, rfl, rfl, rfl, add_one_ne _⟩

/-- `EncodeAfterDecodeChangesNoByteOfTheWire`, `VerifyHoldsAfterEncodeAndAfterDecode`, and the last clause of
`NoCommandReadsPayloadBeyondItsLength` (PAYLOAD_LEN is 0 here, so any P agrees below it): a DECODE that ends well. -/
theorem witness_decode_ends_well : ∃ t, exec .decode encoded = .next t ∧ t.status = 0x00 := by
  refine ⟨_, exec_decode _, ?_⟩
  rw [decodeWith, encoded_checks]
  rfl

/-- `AlteredHashFieldIsAlwaysRejected`: an encoding with its last byte changed. -/
theorem witness_altered_hash :
    State.reset.Inv Config.marsh ∧ exec .encode State.reset = .next encoded ∧
      (∀ a, a < 36 + State.reset.payloadLen.toNat →
        ({ encoded with wire := (altered 67).wire } : State).readW Config.marsh a = encoded.readW Config.marsh a) ∧
      (∃ a, 36 + State.reset.payloadLen.toNat ≤ a ∧ a < 68 + State.reset.payloadLen.toNat ∧
        ({ encoded with wire := (altered 67).wire } : State).readW Config.marsh a ≠ encoded.readW Config.marsh a) := by
  have hr : ∀ a, ({ encoded with wire := (altered 67).wire } : State).readW Config.marsh a =
      (altered 67).readW Config.marsh a := fun _ => rfl
  have hn : State.reset.payloadLen.toNat = 0 := rfl
  refine ⟨State.resetOf_inv Config.marsh, rfl, fun a h => ?_, 67, by omega, by omega, ?_⟩
  · rw [hr, readW_altered, if_neg (by omega)]
  · rw [hr, readW_altered, if_pos rfl]
    exact add_one_ne _

/-- `OneAlteredByteIsRejectedUnlessTheDigestCollides`: every byte of an encoding can be altered; and an address for each
clause, at its bounds. -/
theorem witness_altered_byte :
    (∀ k, k < 68 → State.reset.Inv Config.marsh ∧ exec .encode State.reset = .next encoded ∧
      k < 68 + State.reset.payloadLen.toNat ∧ encoded.readW Config.marsh k + 1 ≠ encoded.readW Config.marsh k) ∧
    (24 ≤ 24 ∧ 27 < 28 ∧ 36 + State.reset.payloadLen.toNat ≤ 36 ∧ 67 < 68 + State.reset.payloadLen.toNat) ∧
    (∀ k ∈ [1, 16, 18, 23, 28, 35], k < 36 + State.reset.payloadLen.toNat ∧ k ≠ 0 ∧ k ≠ 17 ∧ ¬(24 ≤ k ∧ k < 28)) := by
  refine ⟨fun k h => ⟨State.resetOf_inv Config.marsh, rfl, h, add_one_ne _⟩, by decide, by decide⟩

/-- `OneAlteredByteIsRejectedUnderSensitivity`: T0 and its reset state, at every byte; and both intent clauses, the byte
there being 0x01. -/
theorem witness_sensitivity :
    HSens t0.digest ∧ (State.resetOf t0).Inv t0 ∧
      (∀ k, k < 68 → k < 68 + (State.resetOf t0).payloadLen.toNat ∧
        (encodeWith t0 (State.resetOf t0)).readW t0 k + 1 ≠ (encodeWith t0 (State.resetOf t0)).readW t0 k) ∧
      (encodeWith t0 (State.resetOf t0)).readW t0 17 = 0x01 ∧
      t0.intentDefined 0xEE = false ∧ t0.intentDefined 0x02 = true :=
  ⟨witness_hsens_t0, State.resetOf_inv t0, fun _ h => ⟨h, add_one_ne _⟩, (encodeWith_fields t0 (State.resetOf t0)).2.2.1,
    by decide, by decide⟩

/-- The reset state with a payload of one byte. -/
def onePayload : State := { State.reset with payloadLen := 1 }

/-- `NoCommandReadsPayloadBeyondItsLength`: another P that agrees below PAYLOAD_LEN and differs at it. -/
theorem witness_payload_above :
    let m := (onePayload.writePs Config.marsh 1 [onePayload.readP Config.marsh 1 + 1]).payload
    (∀ a, a < onePayload.payloadLen.toNat →
      ({ onePayload with payload := m } : State).readP Config.marsh a = onePayload.readP Config.marsh a) ∧
    ({ onePayload with payload := m } : State).readP Config.marsh 1 ≠ onePayload.readP Config.marsh 1 := by
  intro m
  have hm : ∀ a, ({ onePayload with payload := m } : State).readP Config.marsh a =
      (onePayload.writePs Config.marsh 1 [onePayload.readP Config.marsh 1 + 1]).readP Config.marsh a := fun _ => rfl
  have hl : onePayload.payloadLen.toNat = 1 := rfl
  refine ⟨fun a h => ?_, ?_⟩
  · rw [hm, State.readP_writePs, dif_neg (by omega)]
  · rw [hm, State.readP_writePs, dif_pos (by simp)]
    exact add_one_ne _

/-- `ConcreteScenarioOfTheSource`. -/
theorem witness_scenario : State.reset.sessionId = Vector.replicate 16 0x00 ∧ State.reset.argLen = 0 := ⟨rfl, rfl⟩

/-- `BigEndianIntegersAndTheirInverse`, `HeaderFieldsAreRecoveredFromTheBytes` (its second clause, and its third on 68 zero
bytes). -/
theorem witness_bytes :
    (0 < 4 ∧ 3 < 4 ∧ 7 < 8) ∧ ([0x00, 0xA0, 0x00, 0x00] : Bytes).length = 4 ∧ (be8 7).length = 8 ∧
      ([0x61, 0x62] : Bytes).length = (2 : Word).toNat ∧
      (let b : Bytes := List.replicate 68 0x00
       b[0]? = some 0x00 ∧ (b.drop 1).take 16 = (Vector.replicate 16 0x00 : SessionId).toList ∧ b[17]? = some 0x00 ∧
         b[18]? = some 0x00 ∧ b[19]? = some 0x00 ∧ unbe ((b.drop 24).take 4) = 0 ∧ b.length = 36 + 0 + 32) := by decide

/-- `ErrorsLeaveTheRestOfTheStateAlone`, `CommandsAreRefusedExactlyOutsideTheirDomain`: a refused command. -/
theorem witness_refused :
    exec (.setComp 0x04) State.reset = .next { State.reset with status := 0xFF } ∧
      (Instr.setComp 0x04).wellFormed Config.marsh = false := ⟨rfl, rfl⟩

/-- `OnlyConstructAndDecodeRaiseErrors`: PayloadTooLarge at its bound. -/
theorem witness_too_large :
    exec (.construct 0x01) { State.reset with argLen := 10485761 } =
      .next { State.reset with argLen := 10485761, status := 0x07 } := rfl

/-- `AccessesThatDoNotExistAreRefused`: each clause at its bounds. -/
theorem witness_no_access :
    ((9 ≤ 9 ∧ 9 ≤ 15) ∨ 0x17 ≤ 9) ∧ ((9 ≤ 15 ∧ 15 ≤ 15) ∨ 0x17 ≤ 15) ∧ ((9 ≤ 0x17 ∧ 0x17 ≤ 15) ∨ 0x17 ≤ 0x17) ∧
      10485827 < 10485828 ∧ 10485759 < 10485760 := by decide

/-- `StepsAreRefusedExactlyOnIllFormedActions`: a pending action of each kind. -/
theorem witness_actions :
    (HostAction.readReg 0x16).wellFormed = true ∧ (HostAction.readReg 0x17).wellFormed = false ∧
      ({ State.reset with pending := [.readReg 0x17] } : State).pending = .readReg 0x17 :: [] := ⟨by decide, by decide, rfl⟩

/-- `HostByteAccessesReadAndWriteOneByte`: the ends of both buffers. -/
theorem witness_addresses : (0 < 10485828 ∧ 10485827 < 10485828) ∧ (0 < 10485760 ∧ 10485759 < 10485760) := by decide

/-- `OnlyCommandsAndResetChangeTheOutcome`: a host write of ARG_LEN. -/
theorem witness_host_write :
    let s : State := { State.reset with pending := [.writeReg 0x14 (.word 3)] }
    s.pending = .writeReg 0x14 (.word 3) :: [] ∧ HostAction.writeReg 0x14 (.word 3) ≠ .reset ∧
      (∀ v, HostAction.writeReg 0x14 (.word 3) ≠ .writeReg 0x10 v) ∧ step s = .next { State.reset with argLen := 3 } := by
  refine ⟨rfl, by simp, by simp, rfl⟩

end Sys2Proof.Tests
end

section
/-! SUPPORT. The reasoning rules of the host port (R42, R47, R67, R73): which numbers name a register, and what each
host access answers, so that no proof about a host action unfolds the port again. -/

namespace Sys2Proof

/-- A number names a register exactly when it is that register's number (R20, R33, R47). -/
theorem Reg.ofNumber_eq_some_iff {n : Nat} {r : Reg} : Reg.ofNumber n = some r ↔ n = r.number := by
  constructor
  · intro h
    have hr := List.find?_some h
    exact (eq_of_beq hr).symm
  · rintro rfl
    cases r <;> rfl

@[simp] theorem Reg.ofNumber_number (r : Reg) : Reg.ofNumber r.number = some r :=
  Reg.ofNumber_eq_some_iff.mpr rfl

/-- The gap between the packet and the control registers, and everything past NOW, names no register (R47). -/
theorem Reg.ofNumber_eq_none {n : Nat} (h : (9 ≤ n ∧ n ≤ 15) ∨ 0x17 ≤ n) : Reg.ofNumber n = none := by
  refine Option.eq_none_iff_forall_ne_some.mpr fun r hr => ?_
  rw [Reg.ofNumber_eq_some_iff] at hr
  cases r <;> simp only [Reg.number] at hr <;> omega

end Sys2Proof

namespace Sys2Proof.Machine

variable {s t : State} {n a : Nat} {r : Reg} {v : RegValue}

/-- The step on the host's next action, that action being named in the state itself (R73). -/
theorem step_pending (s : State) (act : HostAction) (rest : List HostAction) :
    step { s with pending := act :: rest } = hostAct act (s.takeUp rest) := step_cons rfl

/-! ### Register accesses -/

/-- A write to CMD issues the word written (R34). -/
theorem hostWriteReg_cmd (w : Half) (s : State) : hostWriteReg 0x10 (.half w) s = issueCommand w s := rfl

theorem hostWriteReg_noSuchRegister (h : Reg.ofNumber n = none) :
    hostWriteReg n v s = .refused (.noSuchRegister n) := by
  simp [hostWriteReg, h]

/-- A write to a register other than CMD goes on exactly as the register stores the value (R42). -/
theorem hostWriteReg_eq_next_iff (hc : r ≠ .cmd) :
    hostWriteReg r.number v s = .next t ↔ s.storeReg Config.marsh r v = some t := by
  unfold hostWriteReg
  rw [Reg.ofNumber_number]
  split
  case h_1 => simp_all
  case h_2 => simp_all
  case h_3 hr _ =>
    cases hr
    split <;> simp_all

theorem hostReadReg_noSuchRegister (h : Reg.ofNumber n = none) :
    hostReadReg n s = .refused (.noSuchRegister n) := by
  simp [hostReadReg, h]

/-- A read of a register other than NOW hands over its value and does nothing else (R42). -/
theorem hostReadReg_number (s : State) (h : r ≠ .now) :
    hostReadReg r.number s = .next (s.answer (s.readReg Config.marsh r)) := by
  unfold hostReadReg
  rw [Reg.ofNumber_number]
  cases r with
  | now => exact absurd rfl h
  | _ => rfl

/-- A read of NOW draws one sample and hands it over (R41, R42). -/
theorem hostReadReg_now (s : State) :
    hostReadReg 0x16 s = .next (s.afterDraw.answer (.double (Config.now s.nowDraws))) := rfl

/-- INTENT takes a defined code only (R23). -/
theorem State.storeReg_intent (p : Params) (s : State) (b : Byte) :
    s.storeReg p .intent (.byte b) = some { s with intent := if p.intentDefined b then b else s.intent } := by
  simp only [State.storeReg]
  split <;> rfl

/-! ### Byte accesses past the end of a buffer (R67) -/

theorem hostReadWire_noSuchAddress (h : 10485827 < a) : hostReadWire a s = .refused (.noSuchWireAddress a) :=
  if_neg (Nat.not_lt.mpr h)

theorem hostWriteWire_noSuchAddress (b : Byte) (h : 10485827 < a) :
    hostWriteWire a b s = .refused (.noSuchWireAddress a) :=
  if_neg (Nat.not_lt.mpr h)

theorem hostReadPayload_noSuchAddress (h : 10485759 < a) : hostReadPayload a s = .refused (.noSuchPayloadAddress a) :=
  if_neg (Nat.not_lt.mpr h)

theorem hostWritePayload_noSuchAddress (b : Byte) (h : 10485759 < a) :
    hostWritePayload a b s = .refused (.noSuchPayloadAddress a) :=
  if_neg (Nat.not_lt.mpr h)

end Sys2Proof.Machine
end

section
/-! SUPPORT. The outcome registers STATUS, ERR_BYTE and RESULT (R35 to R37, R43): no host access but a command and reset
writes them (R42), and no command reads them. -/

namespace Sys2Proof.Machine

variable {p : Params} {s t : State}

/-- The three outcome registers together (R35, R36, R37). -/
def State.outcome (s : State) : Byte × Byte × Byte := (s.status, s.errByte, s.result)

theorem State.outcome_eq_iff :
    t.outcome = s.outcome ↔ t.status = s.status ∧ t.errByte = s.errByte ∧ t.result = s.result := by
  simp [State.outcome]

/-! ### Host accesses leave them -/

/-- No register the host can store to is an outcome register (R42). -/
theorem State.storeReg_outcome {r : Reg} {v : RegValue} (h : s.storeReg p r v = some t) : t.outcome = s.outcome := by
  unfold State.storeReg at h
  split at h <;> cases h
  case h_3 => split <;> rfl
  all_goals rfl

theorem hostWriteReg_outcome {n : Nat} {v : RegValue} (hc : n ≠ 0x10) (h : hostWriteReg n v s = .next t) :
    t.outcome = s.outcome := by
  cases hr : Reg.ofNumber n with
  | none => simp [hostWriteReg_noSuchRegister hr] at h
  | some r =>
    obtain rfl := Reg.ofNumber_eq_some_iff.mp hr
    have hne : r ≠ .cmd := fun e => hc (e ▸ rfl)
    exact State.storeReg_outcome ((hostWriteReg_eq_next_iff hne).mp h)

theorem hostReadReg_outcome {n : Nat} (h : hostReadReg n s = .next t) : t.outcome = s.outcome := by
  unfold hostReadReg at h
  split at h <;> cases h <;> rfl

theorem hostWriteWire_outcome {a : Nat} {b : Byte} (h : hostWriteWire a b s = .next t) : t.outcome = s.outcome := by
  unfold hostWriteWire at h
  split at h <;> cases h
  rfl

theorem hostReadWire_outcome {a : Nat} (h : hostReadWire a s = .next t) : t.outcome = s.outcome := by
  unfold hostReadWire at h
  split at h <;> cases h
  rfl

theorem hostWritePayload_outcome {a : Nat} {b : Byte} (h : hostWritePayload a b s = .next t) :
    t.outcome = s.outcome := by
  unfold hostWritePayload at h
  split at h <;> cases h
  rfl

theorem hostReadPayload_outcome {a : Nat} (h : hostReadPayload a s = .next t) : t.outcome = s.outcome := by
  unfold hostReadPayload at h
  split at h <;> cases h
  rfl

/-- A host action that is neither a write of CMD nor reset leaves the outcome registers (R42). -/
theorem hostAct_outcome {act : HostAction} (hr : act ≠ .reset) (hc : ∀ v, act ≠ .writeReg 0x10 v)
    (h : hostAct act s = .next t) : t.outcome = s.outcome := by
  cases act with
  | writeReg n v => exact hostWriteReg_outcome (fun hn => hc v (hn ▸ rfl)) h
  | readReg n => exact hostReadReg_outcome h
  | writeWire a b => exact hostWriteWire_outcome h
  | readWire a => exact hostReadWire_outcome h
  | writePayload a b => exact hostWritePayload_outcome h
  | readPayload a => exact hostReadPayload_outcome h
  | reset => exact absurd rfl hr

/-! ### Commands overwrite them unread -/

/-- The state with other outcome registers. -/
def State.withOutcome (a b c : Byte) (s : State) : State := { s with status := a, errByte := b, result := c }

variable (p s) (a b c : Byte)

@[simp] theorem State.raise_withOutcome (e : ErrorOutcome) : (s.withOutcome a b c).raise e = s.raise e := rfl

@[simp] theorem State.finish_withOutcome (r : Byte) : (s.withOutcome a b c).finish r = s.finish r := rfl

@[simp] theorem State.updateFlags_withOutcome (d : Bool) (f : Byte) :
    (s.withOutcome a b c).updateFlags d f = s.updateFlags d f := by
  cases d with
  | false => exact s.raise_withOutcome a b c .refused
  | true => rfl

/-- CONSTRUCT looks at the operand and ARG_LEN, then ends in `raise` or `finish` (R220). -/
@[simp] theorem constructWith_withOutcome (imm8 : Byte) :
    constructWith p imm8 (s.withOutcome a b c) = constructWith p imm8 s := rfl

@[simp] theorem encodeWith_withOutcome : encodeWith p (s.withOutcome a b c) = encodeWith p s := rfl

@[simp] theorem decodeChecks_withOutcome : decodeChecks p (s.withOutcome a b c) = decodeChecks p s := rfl

@[simp] theorem decodeWith_withOutcome : decodeWith p (s.withOutcome a b c) = decodeWith p s := by
  unfold decodeWith
  rw [decodeChecks_withOutcome]
  cases decodeChecks p s with
  | error e => exact s.raise_withOutcome a b c e
  | ok n => rfl

@[simp] theorem verifyWith_withOutcome : verifyWith p (s.withOutcome a b c) = verifyWith p s := rfl

/-- Every command ends in `raise` or `finish`, which write all three outcome registers, and reads none (R43, R277). -/
theorem exec_withOutcome (i : Instr) : exec i (s.withOutcome a b c) = exec i s := by
  cases i with
  | chkIntent => simp only [exec_chkIntent, State.finish_withOutcome]
  | chkComp => simp only [exec_chkComp, State.finish_withOutcome]
  | chkEnc => simp only [exec_chkEnc, State.finish_withOutcome]
  | getComp => rfl
  | getEnc => rfl
  | getFrag => rfl
  | getAck => rfl
  | setComp => exact congrArg Host.Outcome.next (s.updateFlags_withOutcome a b c _ _)
  | setEnc => exact congrArg Host.Outcome.next (s.updateFlags_withOutcome a b c _ _)
  | setFrag => exact congrArg Host.Outcome.next (s.updateFlags_withOutcome a b c _ _)
  | setAck => exact congrArg Host.Outcome.next (s.updateFlags_withOutcome a b c _ _)
  | construct => simp only [exec_construct, constructWith_withOutcome]
  | encode => simp only [exec_encode, encodeWith_withOutcome]
  | decode => simp only [exec_decode, decodeWith_withOutcome]
  | verify => simp only [exec_verify, verifyWith_withOutcome]

end Sys2Proof.Machine
end

section
/-! SUPPORT. The payload buffer P and the commands (R31, R247): the Packet's payload is the part of P below PAYLOAD_LEN,
DECODE alone writes P, and what a command does is the same with other bytes of P at and above PAYLOAD_LEN. -/

namespace Sys2Proof.Machine

/-! ### What DECODE leaves in P -/

section
variable (p : Params) (s : State)

/-- A received payload replaces the first `n` bytes of P and no other (R247). -/
theorem State.readP_loadPacket (n a : Nat) :
    (s.loadPacket p n).readP p a = if a < n then s.readW p (36 + a) else s.readP p a := by
  rw [State.loadPacket, State.readP_writePs]
  simp only [State.length_readWs, Nat.zero_le, true_and, Nat.sub_zero, State.loadFields_readP]
  split
  · simp only [State.readWs, Memory.getElem_readBytes]
    rfl
  · rfl

/-- The PAYLOAD_LEN a DECODE loads is the length its checks found (R245, R247). -/
theorem State.payloadLen_loadPacket {n : Nat} (h : decodeChecks p s = .ok n) :
    (s.loadPacket p n).payloadLen.toNat = n := by
  obtain ⟨-, hle, -, -, -, hlen, -⟩ := (decodeChecks_ok_iff p s n).mp h
  simp only [State.loadPacket, State.writePs_payloadLen, State.loadFields_payloadLen, BitVec.toNat_ofNat]
  omega

end

theorem decodeWith_of_error {p : Params} {s : State} {e : ErrorOutcome} (h : decodeChecks p s = .error e) :
    decodeWith p s = s.raise e := by
  simp [decodeWith, h]

theorem decodeWith_of_ok {p : Params} {s : State} {n : Nat} (h : decodeChecks p s = .ok n) :
    decodeWith p s = (s.loadPacket p n).finish 0x00 := by
  simp [decodeWith, h]

/-- No error has the STATUS of success (R35, R271). -/
theorem ErrorOutcome.code_ne_zero (e : ErrorOutcome) : e.code ≠ 0x00 := by
  cases e <;> simp [ErrorOutcome.code]

/-! ### The same state with another payload buffer -/

/-- The state with `m` for its payload buffer. -/
def State.withPayload (m : Memory) (s : State) : State := { s with payload := m }

/-- The checks of DECODE look at W and WIRE_LEN only (R240). -/
theorem decodeChecks_withPayload (p : Params) (s : State) (m : Memory) :
    decodeChecks p (s.withPayload m) = decodeChecks p s := rfl

theorem State.updateFlags_withPayload (m : Memory) (s : State) (d : Bool) (f : Byte) :
    (s.withPayload m).updateFlags d f = (s.updateFlags d f).withPayload m := by
  cases d <;> rfl

theorem State.updateFlags_payload (s : State) (d : Bool) (f : Byte) : (s.updateFlags d f).payload = s.payload := by
  cases d <;> rfl

theorem constructWith_withPayload (p : Params) (imm8 : Byte) (m : Memory) (s : State) :
    constructWith p imm8 (s.withPayload m) = (constructWith p imm8 s).withPayload m := by
  have hlen : (s.withPayload m).offeredLen = s.offeredLen := rfl
  simp only [constructWith, hlen]
  split_ifs <;> rfl

theorem constructWith_payload (p : Params) (imm8 : Byte) (s : State) :
    (constructWith p imm8 s).payload = s.payload := by
  obtain ⟨-, h⟩ | ⟨-, -, h⟩ | ⟨-, -, h⟩ := constructWith_cases p s imm8 <;> rw [h] <;> rfl

section
variable {p : Params} {s : State} {m : Memory}
  (hm : ∀ a, a < s.payloadLen.toNat → (s.withPayload m).readP p a = s.readP p a)
include hm

theorem State.packetPayload_withPayload : (s.withPayload m).packetPayload p = s.packetPayload p :=
  Memory.readBytes_congr fun i hi => by rw [Nat.zero_add]; exact hm i hi

theorem State.packetHash_withPayload : (s.withPayload m).packetHash p = s.packetHash p := by
  rw [State.packetHash, State.packetPayload_withPayload hm]
  rfl

theorem State.writeBody_withPayload : (s.withPayload m).writeBody p = (s.writeBody p).withPayload m := by
  rw [State.writeBody, State.packetPayload_withPayload hm]
  rfl

theorem encodeWith_withPayload : encodeWith p (s.withPayload m) = (encodeWith p s).withPayload m := by
  simp only [encodeWith, State.writeBody_withPayload hm]
  rfl

theorem verifyWith_withPayload : verifyWith p (s.withPayload m) = (verifyWith p s).withPayload m := by
  rw [verifyWith, State.packetHash_withPayload hm]
  rfl

end

/-- A command that is one function of the state, which leaves P and commutes with swapping it, does the same with
another payload buffer. -/
theorem exec_withPayload_of_commutes {i : Instr} {f : State → State} {m : Memory} {s : State}
    (hf : ∀ s, exec i s = .next (f s)) (hswap : f (s.withPayload m) = (f s).withPayload m)
    (hkeep : (f s).payload = s.payload) :
    ∃ t, exec i s = .next t ∧ exec i (s.withPayload m) = .next (t.withPayload m) ∧ t.payload = s.payload :=
  ⟨f s, hf s, by rw [hf, hswap], hkeep⟩

/-- Every command but DECODE leaves P and does the same whatever P holds at and above PAYLOAD_LEN (R31, R64). -/
theorem exec_withPayload_of_ne_decode {s : State} {m : Memory} {i : Instr} (hi : i ≠ .decode)
    (hm : ∀ a, a < s.payloadLen.toNat → (s.withPayload m).readP Config.marsh a = s.readP Config.marsh a) :
    ∃ t, exec i s = .next t ∧ exec i (s.withPayload m) = .next (t.withPayload m) ∧ t.payload = s.payload := by
  cases i with
  | chkIntent imm8 => exact exec_withPayload_of_commutes (exec_chkIntent imm8) rfl rfl
  | chkComp imm8 => exact exec_withPayload_of_commutes (exec_chkComp imm8) rfl rfl
  | chkEnc imm8 => exact exec_withPayload_of_commutes (exec_chkEnc imm8) rfl rfl
  | getComp => exact exec_withPayload_of_commutes exec_getComp rfl rfl
  | getEnc => exact exec_withPayload_of_commutes exec_getEnc rfl rfl
  | getFrag => exact exec_withPayload_of_commutes exec_getFrag rfl rfl
  | getAck => exact exec_withPayload_of_commutes exec_getAck rfl rfl
  | setComp imm8 =>
    exact exec_withPayload_of_commutes (exec_setComp imm8) (s.updateFlags_withPayload m _ _) (s.updateFlags_payload _ _)
  | setEnc imm8 =>
    exact exec_withPayload_of_commutes (exec_setEnc imm8) (s.updateFlags_withPayload m _ _) (s.updateFlags_payload _ _)
  | setFrag imm8 =>
    exact exec_withPayload_of_commutes (exec_setFrag imm8) (s.updateFlags_withPayload m _ _) (s.updateFlags_payload _ _)
  | setAck imm8 =>
    exact exec_withPayload_of_commutes (exec_setAck imm8) (s.updateFlags_withPayload m _ _) (s.updateFlags_payload _ _)
  | construct imm8 =>
    exact exec_withPayload_of_commutes (exec_construct imm8) (constructWith_withPayload _ imm8 m s)
      (constructWith_payload _ imm8 s)
  | encode => exact exec_withPayload_of_commutes exec_encode (encodeWith_withPayload hm) (encodeWith_payload _ s)
  | decode => exact absurd rfl hi
  | verify => exact exec_withPayload_of_commutes exec_verify (verifyWith_withPayload hm) rfl

end Sys2Proof.Machine
end

section
/-! SUPPORT. The statements about state and host access (`10_state.md`), settled. -/

namespace Sys2Proof.Machine

/-- Settles O40: every command but DECODE sees P through the Packet's payload only; a DECODE does not read P, and one
that ends well overwrites the two buffers alike below the length it loads. -/
theorem noCommandReadsPayloadBeyondItsLength : Obligations.NoCommandReadsPayloadBeyondItsLength := by
  unfold Obligations.NoCommandReadsPayloadBeyondItsLength
  intro s m i s' hm
  by_cases hi : i = .decode
  · subst hi
    obtain ⟨e, he, hd⟩ | ⟨n, hn, hd⟩ := decodeWith_cases Config.marsh s
    · have hd' : decodeWith Config.marsh s' = s'.raise e := decodeWith_of_error he
      refine ⟨_, _, congrArg Host.Outcome.next hd, congrArg Host.Outcome.next hd', rfl, fun _ => ⟨rfl, rfl⟩,
        fun _ hs => ?_⟩
      exact absurd hs e.code_ne_zero
    · have hd' : decodeWith Config.marsh s' = (s'.loadPacket Config.marsh n).finish 0x00 := decodeWith_of_ok hn
      refine ⟨_, _, congrArg Host.Outcome.next hd, congrArg Host.Outcome.next hd', rfl, fun hs => ?_, fun _ _ => ?_⟩
      · simp at hs
      · simp only [State.finish_payloadLen, State.finish_readP, State.payloadLen_loadPacket _ s hn,
          State.readP_loadPacket]
        refine ⟨fun a ha => ?_, fun a ha => ?_⟩
        · rw [if_pos ha, if_pos ha]
          rfl
        · rw [if_neg (Nat.not_lt.mpr ha), if_neg (Nat.not_lt.mpr ha)]
          exact ⟨rfl, rfl⟩
  · obtain ⟨t, ht, ht', hp⟩ := exec_withPayload_of_ne_decode hi hm
    exact ⟨t, _, ht, ht', rfl, fun _ => ⟨hp, rfl⟩, fun h => absurd h hi⟩

/-- Settles O55, from the rule that each host access but a command and reset leaves the outcome registers. -/
theorem onlyCommandsAndResetChangeTheOutcome : Obligations.OnlyCommandsAndResetChangeTheOutcome := by
  unfold Obligations.OnlyCommandsAndResetChangeTheOutcome
  intro s t act rest hp hr hc ht
  rw [step_cons hp] at ht
  have hout : t.outcome = (s.takeUp rest).outcome := hostAct_outcome hr hc ht
  exact State.outcome_eq_iff.mp hout

/-- Settles O9: the step takes the write up, and the port runs what the word decodes to. -/
theorem stepRunsTheCommandWrittenToCmd : Obligations.StepRunsTheCommandWrittenToCmd := by
  unfold Obligations.StepRunsTheCommandWrittenToCmd
  intro s rest w i hp hw
  refine ⟨?_, rfl⟩
  calc step s = hostWriteReg 0x10 (.half w) (s.takeUp rest) := step_cons hp
    _ = issueCommand w (s.takeUp rest) := hostWriteReg_cmd w _
    _ = exec i (s.takeUp rest) := issueCommand_ok _ hw

/-- Settles O47: every command ends in `raise` or `finish`, which overwrite the outcome registers. -/
theorem commandsIgnoreTheOutcomeBefore : Obligations.CommandsIgnoreTheOutcomeBefore := by
  unfold Obligations.CommandsIgnoreTheOutcomeBefore
  exact fun i s a b c => exec_withOutcome s a b c i

/-- Settles O50: the list is that of all registers but NOW, each with its read value. -/
theorem hostReadsReturnTheRegisters : Obligations.HostReadsReturnTheRegisters := by
  unfold Obligations.HostReadsReturnTheRegisters
  intro s rest
  simp only [step_pending]
  refine ⟨?_, hostReadReg_now _⟩
  change ∀ e ∈ (Reg.all.filter (· ≠ .now)).map (fun r => (r.number, s.readReg Config.marsh r)), _
  intro e he
  obtain ⟨r, hr, rfl⟩ := List.mem_map.mp he
  have hnow : r ≠ .now := of_decide_eq_true (List.mem_filter.mp hr).2
  exact hostReadReg_number _ hnow

/-- Settles O51: each entry of the list names a register other than CMD and what that register stores. -/
theorem hostWritesStoreOrAreIgnored : Obligations.HostWritesStoreOrAreIgnored := by
  unfold Obligations.HostWritesStoreOrAreIgnored
  intro s rest sid h b w d e he
  have hstore : ∃ r : Reg, r ≠ .cmd ∧ e.1 = r.number ∧
      (s.takeUp rest).storeReg Config.marsh r e.2.1 = some (e.2.2.takeUp rest) := by
    revert e
    simp only [List.forall_mem_cons]
    exact ⟨⟨.sessionId, by decide, rfl, rfl⟩, ⟨.intent, by decide, rfl, State.storeReg_intent ..⟩,
      ⟨.priority, by decide, rfl, rfl⟩, ⟨.flags, by decide, rfl, rfl⟩, ⟨.sequence, by decide, rfl, rfl⟩,
      ⟨.timestamp, by decide, rfl, rfl⟩, ⟨.hash, by decide, rfl, rfl⟩, ⟨.argLen, by decide, rfl, rfl⟩,
      ⟨.wireLen, by decide, rfl, rfl⟩, ⟨.version, by decide, rfl, rfl⟩, ⟨.payloadLen, by decide, rfl, rfl⟩,
      ⟨.status, by decide, rfl, rfl⟩, ⟨.errByte, by decide, rfl, rfl⟩, ⟨.result, by decide, rfl, rfl⟩,
      ⟨.now, by decide, rfl, rfl⟩, List.forall_mem_nil _⟩
  obtain ⟨r, hcmd, hnum, hval⟩ := hstore
  rw [step_pending, hnum]
  exact (hostWriteReg_eq_next_iff hcmd).mpr hval

/-- Settles O52: a number outside the register map names nothing, and a byte access looks at its address first. -/
theorem accessesThatDoNotExistAreRefused : Obligations.AccessesThatDoNotExistAreRefused := by
  unfold Obligations.AccessesThatDoNotExistAreRefused
  intro s rest n a v b
  simp only [step_pending]
  refine ⟨fun hn => ?_, fun ha => ?_, fun ha => ?_⟩
  · have hnone := Reg.ofNumber_eq_none hn
    exact ⟨hostReadReg_noSuchRegister hnone, hostWriteReg_noSuchRegister hnone⟩
  · exact ⟨hostReadWire_noSuchAddress ha, hostWriteWire_noSuchAddress b ha⟩
  · exact ⟨hostReadPayload_noSuchAddress ha, hostWritePayload_noSuchAddress b ha⟩

end Sys2Proof.Machine
end

section
/-! SUPPORT. The reasoning rules of the two byte memories for the commands and the host (R60, R64, R68, R73): what one
stored byte leaves, which addresses of W a DECODE looks at, and which commands leave both memories. -/

namespace Sys2Proof.Machine

/-! ### One byte stored (R73) -/

/-- What every address holds after one byte was written (R73). -/
theorem Memory.read_write {fill : Nat → Byte} (m : Memory) (a x : Nat) (b : Byte) :
    Memory.read fill (Memory.write fill a b m) x = if x = a then b else Memory.read fill m x := by
  split
  · next h => rw [h, Memory.read_write_same]
  · next h => exact Memory.read_write_other m b h

section
variable {s : State} {a : Nat}

theorem State.readW_writeWs_singleton (p : Params) (s : State) (a x : Nat) (b : Byte) :
    (s.writeWs p a [b]).readW p x = if x = a then b else s.readW p x :=
  Memory.read_write s.wire a x b

theorem State.readP_writePs_singleton (p : Params) (s : State) (a x : Nat) (b : Byte) :
    (s.writePs p a [b]).readP p x = if x = a then b else s.readP p x :=
  Memory.read_write s.payload a x b

theorem hostWriteWire_of_lt (b : Byte) (h : a < 10485828) :
    hostWriteWire a b s = .next (s.writeWs Config.marsh a [b]) := if_pos h

theorem hostReadWire_of_lt (h : a < 10485828) :
    hostReadWire a s = .next (s.answer (.byte (s.readW Config.marsh a))) := if_pos h

theorem hostWritePayload_of_lt (b : Byte) (h : a < 10485760) :
    hostWritePayload a b s = .next (s.writePs Config.marsh a [b]) := if_pos h

theorem hostReadPayload_of_lt (h : a < 10485760) :
    hostReadPayload a s = .next (s.answer (.byte (s.readP Config.marsh a))) := if_pos h

end

/-! ### The same state with another wire buffer -/

/-- The state with `m` for its wire buffer. -/
def State.withWire (m : Memory) (s : State) : State := { s with wire := m }

@[simp] theorem State.withWire_wireLen (m : Memory) (s : State) : (s.withWire m).wireLen = s.wireLen := rfl

section
variable {p : Params} {s : State} {m : Memory} {a n : Nat}

theorem State.readWs_withWire (h : ∀ i < n, (s.withWire m).readW p (a + i) = s.readW p (a + i)) :
    (s.withWire m).readWs p a n = s.readWs p a n :=
  Memory.readBytes_congr h

theorem State.wireVector_withWire (h : ∀ i < n, (s.withWire m).readW p (a + i) = s.readW p (a + i)) :
    (s.withWire m).wireVector p a n = s.wireVector p a n := by
  rw [← Vector.toList_inj, State.toList_wireVector, State.toList_wireVector, State.readWs_withWire h]

/-- The declared length is read from W[24..28) (R93). -/
theorem State.declaredLen_withWire (h : ∀ i < 4, (s.withWire m).readW p (24 + i) = s.readW p (24 + i)) :
    (s.withWire m).declaredLen p = s.declaredLen p := by
  rw [State.declaredLen, State.declaredLen, State.readWs_withWire h]

/-- The digest of check 6 is taken over W[0..36+n) (R246). -/
theorem State.wireHash_withWire (h : ∀ a < 36 + n, (s.withWire m).readW p a = s.readW p a) :
    (s.withWire m).wireHash p n = s.wireHash p n := by
  rw [State.wireHash, State.wireHash, State.readWs_withWire fun i hi => ?_]
  rw [Nat.zero_add]
  exact h i hi

/-- The hash check 6 compares with is W[36+n..68+n) (R246). -/
theorem State.carriedHash_withWire (h : ∀ a < 68 + n, (s.withWire m).readW p a = s.readW p a) :
    (s.withWire m).carriedHash p n = s.carriedHash p n :=
  State.wireVector_withWire fun i hi => h _ (by rw [headerLen_eq]; omega)

/-- A Packet of payload length `n` is loaded from W[0..68+n) (R64, R247). -/
theorem State.loadPacket_withWire (h : ∀ a < 68 + n, (s.withWire m).readW p a = s.readW p a) :
    (s.withWire m).loadPacket p n = (s.loadPacket p n).withWire m := by
  have hfields : (s.withWire m).loadFields p n = (s.loadFields p n).withWire m := by
    simp only [State.loadFields, h 17 (by omega), h 18 (by omega), h 19 (by omega),
      State.readWs_withWire (a := 20) (n := 4) fun i hi => h _ (by omega),
      State.readWs_withWire (a := 28) (n := 8) fun i hi => h _ (by omega),
      State.wireVector_withWire (a := 1) (n := 16) fun i hi => h _ (by omega),
      State.wireVector_withWire (a := Config.headerLen + n) (n := 32) fun i hi => h _ (by rw [headerLen_eq]; omega)]
    rfl
  have hpayload : (s.withWire m).readWs p Config.headerLen n = s.readWs p Config.headerLen n :=
    State.readWs_withWire fun i hi => h _ (by rw [headerLen_eq]; omega)
  rw [State.loadPacket, hfields, hpayload]
  rfl

end

/-! ### Which addresses of W a DECODE looks at (R64) -/

/-- The DECODE rows of the table of R64: the addresses of W that a DECODE of `len` input bytes has read when it ends with
STATUS `status`. -/
def decodeReads (len : Nat) (status : Byte) : List Nat :=
  if status = 0x01 ∨ status = 0x02 then []
  else if status = 0x03 then [0]
  else if status = 0x04 then [0, 17]
  else if status = 0x05 then [0, 17, 24, 25, 26, 27]
  else List.range len

theorem decodeReads_version (len : Nat) : decodeReads len 0x03 = [0] := rfl
theorem decodeReads_intent (len : Nat) : decodeReads len 0x04 = [0, 17] := rfl
theorem decodeReads_length (len : Nat) : decodeReads len 0x05 = [0, 17, 24, 25, 26, 27] := rfl

theorem lt_of_mem_decodeReads {len a : Nat} {status : Byte} (h : a ∈ decodeReads len status) : a < 28 ∨ a < len := by
  unfold decodeReads at h
  split_ifs at h
  · exact absurd h List.not_mem_nil
  iterate 3
    · simp only [List.mem_cons, List.not_mem_nil, or_false] at h
      exact .inl (by omega)
  · exact .inr (List.mem_range.mp h)

section
variable {p : Params} {s : State} {m : Memory}

/-- STATUS of a DECODE, from the outcome of its checks (R35, R271). -/
def statusOfChecks : Except ErrorOutcome Nat → Byte
  | .error e => e.code
  | .ok _ => 0x00

theorem decodeWith_status (p : Params) (s : State) : (decodeWith p s).status = statusOfChecks (decodeChecks p s) := by
  unfold decodeWith
  cases decodeChecks p s <;> rfl

/-- The checks come out alike on two wire buffers that agree at the addresses looked at (R64, R240). -/
theorem decodeChecks_withWire
    (h : ∀ a ∈ decodeReads s.inputLen (statusOfChecks (decodeChecks p s)), (s.withWire m).readW p a = s.readW p a) :
    decodeChecks p (s.withWire m) = decodeChecks p s := by
  generalize hr : decodeChecks p s = r at h ⊢
  rw [decodeChecks_eq] at hr ⊢
  rw [State.withWire_wireLen]
  split_ifs at hr with h1 h2 h3 h4 h5 h6 <;> subst hr
  · rw [if_pos h1]
  · rw [if_neg h1, if_pos h2]
  · change ∀ a ∈ [0], _ at h
    rw [h 0 (by decide), if_neg h1, if_neg h2, if_pos h3]
  · change ∀ a ∈ [0, 17], _ at h
    rw [h 0 (by decide), h 17 (by decide), if_neg h1, if_neg h2, if_neg h3, if_pos h4]
  · change ∀ a ∈ [0, 17, 24, 25, 26, 27], _ at h
    have hlen : (s.withWire m).declaredLen p = s.declaredLen p :=
      State.declaredLen_withWire fun i hi => h _ (by simp; omega)
    rw [h 0 (by decide), h 17 (by decide), hlen, if_neg h1, if_neg h2, if_neg h3, if_neg h4, if_pos h5]
  all_goals
    replace h : ∀ a < 68 + s.declaredLen p, (s.withWire m).readW p a = s.readW p a :=
      fun a ha => h a (List.mem_range.mpr (by rw [State.inputLen]; omega))
    have hlen : (s.withWire m).declaredLen p = s.declaredLen p :=
      State.declaredLen_withWire fun i hi => h _ (by omega)
    rw [h 0 (by omega), h 17 (by omega), hlen, State.wireHash_withWire fun a ha => h a (by omega),
      State.carriedHash_withWire h, if_neg h1, if_neg h2, if_neg h3, if_neg h4, if_neg h5]
  · rw [if_pos h6]
  · rw [if_neg h6]

/-- No DECODE looks at W at or above WIRE_LEN: below 68 input bytes it looks at none, and no fixed address it looks at is
above 27 (R66, R249). -/
theorem lt_inputLen_of_mem_decodeReads {a : Nat} (h : a ∈ decodeReads s.inputLen (decodeWith p s).status) :
    a < s.inputLen := by
  by_cases hshort : s.inputLen < 68
  · have hsmall : decodeChecks p s = .error .tooSmall := if_pos hshort
    rw [decodeWith_status, hsmall] at h
    exact absurd h List.not_mem_nil
  · have hbound := lt_of_mem_decodeReads h
    omega

/-- DECODE does the same on two wire buffers that agree at the addresses it looks at (R64, R66). -/
theorem decodeWith_withWire
    (h : ∀ a ∈ decodeReads s.inputLen (decodeWith p s).status, (s.withWire m).readW p a = s.readW p a) :
    decodeWith p (s.withWire m) = (decodeWith p s).withWire m := by
  rw [decodeWith_status] at h
  have hchecks := decodeChecks_withWire h
  cases hr : decodeChecks p s with
  | error e => rw [decodeWith_of_error (hchecks.trans hr), decodeWith_of_error hr]; rfl
  | ok n =>
    obtain ⟨-, -, -, -, -, hlen, -⟩ := (decodeChecks_ok_iff p s n).mp hr
    have hload : (s.withWire m).loadPacket p n = (s.loadPacket p n).withWire m :=
      State.loadPacket_withWire fun a ha => h a (by rw [hr]; exact List.mem_range.mpr (hlen ▸ ha))
    rw [decodeWith_of_ok (hchecks.trans hr), decodeWith_of_ok hr, hload]
    rfl

end

/-! ### Which commands leave both memories (R64) -/

/-- Both memories, with the resets their unwritten bytes depend on, are as they were. -/
structure KeepsMemories (s t : State) : Prop where
  resets_eq : t.resets = s.resets
  wire_eq : t.wire = s.wire
  payload_eq : t.payload = s.payload

section
variable {s t : State}

theorem KeepsMemories.readW (h : KeepsMemories s t) (p : Params) (a : Nat) : t.readW p a = s.readW p a := by
  rw [State.readW, State.wireFill, h.resets_eq, h.wire_eq]
  rfl

theorem KeepsMemories.readP (h : KeepsMemories s t) (p : Params) (a : Nat) : t.readP p a = s.readP p a := by
  rw [State.readP, State.payloadFill, h.resets_eq, h.payload_eq]
  rfl

theorem State.raise_keepsMemories (e : ErrorOutcome) (s : State) : KeepsMemories s (s.raise e) := ⟨rfl, rfl, rfl⟩

theorem State.finish_keepsMemories (r : Byte) (s : State) : KeepsMemories s (s.finish r) := ⟨rfl, rfl, rfl⟩

theorem State.updateFlags_keepsMemories (d : Bool) (f : Byte) (s : State) : KeepsMemories s (s.updateFlags d f) := by
  cases d <;> exact ⟨rfl, rfl, rfl⟩

theorem constructWith_keepsMemories (p : Params) (imm8 : Byte) (s : State) :
    KeepsMemories s (constructWith p imm8 s) := by
  obtain ⟨-, h⟩ | ⟨-, -, h⟩ | ⟨-, -, h⟩ := constructWith_cases p s imm8 <;> rw [h] <;> exact ⟨rfl, rfl, rfl⟩

/-- Every command but ENCODE and DECODE leaves both memories (R64). -/
theorem exec_keepsMemories {i : Instr} (he : i ≠ .encode) (hd : i ≠ .decode) (s : State) :
    ∃ t, exec i s = .next t ∧ KeepsMemories s t := by
  cases i with
  | chkIntent imm8 => exact ⟨_, exec_chkIntent imm8 s, s.finish_keepsMemories _⟩
  | chkComp imm8 => exact ⟨_, exec_chkComp imm8 s, s.finish_keepsMemories _⟩
  | chkEnc imm8 => exact ⟨_, exec_chkEnc imm8 s, s.finish_keepsMemories _⟩
  | getComp => exact ⟨_, exec_getComp s, s.finish_keepsMemories _⟩
  | setComp imm8 => exact ⟨_, exec_setComp imm8 s, s.updateFlags_keepsMemories _ _⟩
  | getEnc => exact ⟨_, exec_getEnc s, s.finish_keepsMemories _⟩
  | setEnc imm8 => exact ⟨_, exec_setEnc imm8 s, s.updateFlags_keepsMemories _ _⟩
  | getFrag => exact ⟨_, exec_getFrag s, s.finish_keepsMemories _⟩
  | setFrag imm8 => exact ⟨_, exec_setFrag imm8 s, s.updateFlags_keepsMemories _ _⟩
  | getAck => exact ⟨_, exec_getAck s, s.finish_keepsMemories _⟩
  | setAck imm8 => exact ⟨_, exec_setAck imm8 s, s.updateFlags_keepsMemories _ _⟩
  | construct imm8 => exact ⟨_, exec_construct imm8 s, constructWith_keepsMemories _ imm8 s⟩
  | encode => exact absurd rfl he
  | decode => exact absurd rfl hd
  | verify => exact ⟨_, exec_verify s, s.finish_keepsMemories _⟩

end

/-! ### What ENCODE and DECODE leave of the memories (R64) -/

/-- ENCODE leaves W from 68 + PAYLOAD_LEN on (R230). -/
theorem encodeWith_readW_of_le {p : Params} {s : State} {a : Nat} (h : 68 + s.payloadLen.toNat ≤ a) :
    (encodeWith p s).readW p a = s.readW p a := by
  rw [encodeWith_readW, dif_neg (by rw [State.length_encoding]; omega)]

/-- No DECODE writes W (R247, R276). -/
theorem decodeWith_readW (p : Params) (s : State) (a : Nat) : (decodeWith p s).readW p a = s.readW p a := by
  obtain ⟨e, -, h⟩ | ⟨n, -, h⟩ := decodeWith_cases p s <;> rw [h] <;> rfl

/-- A DECODE leaves P from the PAYLOAD_LEN it ends with on; one that fails leaves all of P (R247, R276). -/
theorem decodeWith_readP_of_le {p : Params} {s : State} {a : Nat} (h : (decodeWith p s).payloadLen.toNat ≤ a) :
    (decodeWith p s).readP p a = s.readP p a := by
  obtain ⟨e, -, hd⟩ | ⟨n, hn, hd⟩ := decodeWith_cases p s
  · rw [hd, State.raise_readP]
  · rw [hd, State.finish_payloadLen, State.payloadLen_loadPacket p s hn] at h
    rw [hd, State.finish_readP, State.readP_loadPacket, if_neg (Nat.not_lt.mpr h)]

end Sys2Proof.Machine
end

section
/-! SUPPORT. The statements about the memories (`20_memory.md`), settled. -/

namespace Sys2Proof.Machine

/-- Settles O31: every address DECODE looks at is below WIRE_LEN, and it does the same on buffers that agree there. -/
theorem decodeNeverReadsAtOrAboveWireLen : Obligations.DecodeNeverReadsAtOrAboveWireLen := by
  unfold Obligations.DecodeNeverReadsAtOrAboveWireLen
  intro s m hm
  exact ⟨_, exec_decode s,
    congrArg Host.Outcome.next (decodeWith_withWire fun a ha => hm a (lt_inputLen_of_mem_decodeReads ha))⟩

/-- Settles O32: each clause is a row of the table of addresses a DECODE looks at, by the STATUS it ends with. -/
theorem failingDecodeReadsOnlyTheBytesOfItsChecks : Obligations.FailingDecodeReadsOnlyTheBytesOfItsChecks := by
  unfold Obligations.FailingDecodeReadsOnlyTheBytesOfItsChecks
  intro s m
  refine ⟨_, exec_decode s, ?_⟩
  intro same
  have key (hsame : ∀ a ∈ decodeReads s.inputLen (decodeWith Config.marsh s).status, same a) :
      exec .decode (s.withWire m) = .next ((decodeWith Config.marsh s).withWire m) :=
    congrArg Host.Outcome.next (decodeWith_withWire hsame)
  refine ⟨fun hs => key ?_, fun hs h0 => key ?_, fun hs h0 h17 => key ?_, fun hs h0 h17 h24 h25 h26 h27 => key ?_⟩
  · rw [decodeReads, if_pos hs]
    exact List.forall_mem_nil _
  · rw [hs, decodeReads_version]
    simpa using h0
  · rw [hs, decodeReads_intent]
    simpa using ⟨h0, h17⟩
  · rw [hs, decodeReads_length]
    simpa using ⟨h0, h17, h24, h25, h26, h27⟩

/-- Settles O45: ENCODE writes W only, below 68 + PAYLOAD_LEN; DECODE writes P only, below the PAYLOAD_LEN it loads; every
other command keeps both memories. -/
theorem commandsWriteOnlyTheirOwnBytes : Obligations.CommandsWriteOnlyTheirOwnBytes := by
  unfold Obligations.CommandsWriteOnlyTheirOwnBytes
  intro i s
  by_cases he : i = .encode
  · subst he
    exact ⟨_, exec_encode s, fun h => absurd rfl h, fun _ ha => encodeWith_readW_of_le ha,
      fun _ a => encodeWith_readP _ s _ a, fun h => nomatch h⟩
  by_cases hd : i = .decode
  · subst hd
    exact ⟨_, exec_decode s, fun _ => decodeWith_readW _ s, fun a _ => decodeWith_readW _ s a, fun h => absurd rfl h,
      fun _ _ ha => decodeWith_readP_of_le ha⟩
  · obtain ⟨t, ht, hkeep⟩ := exec_keepsMemories he hd s
    exact ⟨t, ht, fun _ => hkeep.readW _, fun a _ => hkeep.readW _ a, fun _ => hkeep.readP _,
      fun _ a _ => hkeep.readP _ a⟩

/-- Settles O54: an access inside its buffer is one stored byte, or one answer and nothing else. -/
theorem hostByteAccessesReadAndWriteOneByte : Obligations.HostByteAccessesReadAndWriteOneByte := by
  unfold Obligations.HostByteAccessesReadAndWriteOneByte
  intro s rest a b
  simp only [step_pending]
  refine ⟨fun ha => ⟨?_, hostReadWire_of_lt ha⟩, fun ha => ⟨?_, hostReadPayload_of_lt ha⟩⟩
  · exact ⟨_, hostWriteWire_of_lt b ha, rfl, fun x => State.readW_writeWs_singleton _ _ a x b⟩
  · exact ⟨_, hostWritePayload_of_lt b ha, rfl, fun x => State.readP_writePs_singleton _ _ a x b⟩

end Sys2Proof.Machine
end

section
/-! SUPPORT. The command word and the operand domains (R120 to R123): which opcode and imm8 encode no command, and which
commands end refused. -/

namespace Sys2Proof

/-- Nothing is encoded by an opcode outside the fifteen, nor by one of the seven that take no operand with another imm8 than
zero (R123). -/
theorem commandOf_eq_none_iff (op imm8 : Byte) :
    commandOf op imm8 = none ↔
      op ∉ [0x10, 0x11, 0x12, 0x20, 0x21, 0x22, 0x23, 0x24, 0x25, 0x26, 0x27, 0x30, 0x31, 0x32, 0x33] ∨
        (op ∈ [0x20, 0x22, 0x24, 0x26, 0x31, 0x32, 0x33] ∧ imm8 ≠ 0x00) := by
  by_cases hop : op ∈ [0x10, 0x11, 0x12, 0x20, 0x21, 0x22, 0x23, 0x24, 0x25, 0x26, 0x27, 0x30, 0x31, 0x32, 0x33]
  · fin_cases hop <;> simp [commandOf]
  · simp_all [commandOf]

/-- A word encodes no command exactly when its opcode and imm8 encode none (R123). -/
theorem decode_ne_ok_iff (op imm8 : Byte) :
    (∀ i, decode (wordOf op imm8) ≠ .ok i) ↔ commandOf op imm8 = none := by
  simp only [ne_eq, decode_ok_iff, Option.eq_none_iff_forall_ne_some]

end Sys2Proof

namespace Sys2Proof.Machine

/-- `t` is what a command whose operand lies in its domain as `inDomain` says can leave of `s` (R122, R280). -/
def EndsRefusedUnless (inDomain : Bool) (s t : State) : Prop :=
  (t.status = 0xFF ↔ inDomain = false) ∧ (inDomain = false → t = s.raise .refused)

theorem endsRefusedUnless_of_status_ne {s t : State} (h : t.status ≠ 0xFF) : EndsRefusedUnless true s t :=
  ⟨iff_of_false h Bool.noConfusion, Bool.noConfusion⟩

theorem State.raise_endsRefusedUnless (s : State) : EndsRefusedUnless false s (s.raise .refused) :=
  ⟨iff_of_true rfl rfl, fun _ => rfl⟩

theorem State.finish_endsRefusedUnless (r : Byte) (s u : State) : EndsRefusedUnless true s (u.finish r) :=
  endsRefusedUnless_of_status_ne (by decide : (0x00 : Byte) ≠ 0xFF)

theorem State.updateFlags_endsRefusedUnless (d : Bool) (f : Byte) (s : State) :
    EndsRefusedUnless d s (s.updateFlags d f) := by
  cases d with
  | false => exact s.raise_endsRefusedUnless
  | true => exact State.finish_endsRefusedUnless 0x00 s _

/-- CONSTRUCT is refused for an undefined intent alone; PayloadTooLarge is another STATUS (R220, R222). -/
theorem constructWith_endsRefusedUnless (p : Params) (imm8 : Byte) (s : State) :
    EndsRefusedUnless (p.intentDefined imm8) s (constructWith p imm8 s) := by
  obtain ⟨hi, h⟩ | ⟨hi, -, h⟩ | ⟨hi, -, h⟩ := constructWith_cases p s imm8 <;> rw [hi, h]
  · exact s.raise_endsRefusedUnless
  · exact endsRefusedUnless_of_status_ne (by decide : (0x07 : Byte) ≠ 0xFF)
  · exact endsRefusedUnless_of_status_ne (by decide : (0x00 : Byte) ≠ 0xFF)

/-- The errors of DECODE are not refusals (R249, R271). -/
theorem decodeWith_endsRefusedUnless (p : Params) (s : State) : EndsRefusedUnless true s (decodeWith p s) := by
  obtain ⟨e, he, h⟩ | ⟨n, -, h⟩ := decodeWith_cases p s <;> rw [h]
  · have hcode : e.code ≠ 0xFF := by
      obtain rfl | rfl | ⟨rfl, -⟩ | ⟨rfl, -⟩ | rfl | rfl := decodeChecks_error p s he <;> simp [ErrorOutcome.code]
    exact endsRefusedUnless_of_status_ne hcode
  · exact State.finish_endsRefusedUnless 0x00 s _

/-- Every command is refused exactly outside its domain (R122, R280). -/
theorem exec_endsRefusedUnless (i : Instr) (s : State) :
    ∃ t, exec i s = .next t ∧ EndsRefusedUnless (i.wellFormed Config.marsh) s t := by
  cases i with
  | chkIntent imm8 => exact ⟨_, exec_chkIntent imm8 s, s.finish_endsRefusedUnless _ s⟩
  | chkComp imm8 => exact ⟨_, exec_chkComp imm8 s, s.finish_endsRefusedUnless _ s⟩
  | chkEnc imm8 => exact ⟨_, exec_chkEnc imm8 s, s.finish_endsRefusedUnless _ s⟩
  | getComp => exact ⟨_, exec_getComp s, s.finish_endsRefusedUnless _ s⟩
  | setComp imm8 => exact ⟨_, exec_setComp imm8 s, s.updateFlags_endsRefusedUnless _ _⟩
  | getEnc => exact ⟨_, exec_getEnc s, s.finish_endsRefusedUnless _ s⟩
  | setEnc imm8 => exact ⟨_, exec_setEnc imm8 s, s.updateFlags_endsRefusedUnless _ _⟩
  | getFrag => exact ⟨_, exec_getFrag s, s.finish_endsRefusedUnless _ s⟩
  | setFrag imm8 => exact ⟨_, exec_setFrag imm8 s, s.updateFlags_endsRefusedUnless _ _⟩
  | getAck => exact ⟨_, exec_getAck s, s.finish_endsRefusedUnless _ s⟩
  | setAck imm8 => exact ⟨_, exec_setAck imm8 s, s.updateFlags_endsRefusedUnless _ _⟩
  | construct imm8 => exact ⟨_, exec_construct imm8 s, constructWith_endsRefusedUnless _ imm8 s⟩
  | encode => exact ⟨_, exec_encode s, endsRefusedUnless_of_status_ne (by rw [encodeWith_status]; decide)⟩
  | decode => exact ⟨_, exec_decode s, decodeWith_endsRefusedUnless _ s⟩
  | verify => exact ⟨_, exec_verify s, s.finish_endsRefusedUnless _ s⟩

end Sys2Proof.Machine
end

section
/-! SUPPORT. The header in a byte sequence (R90 to R95): the weight of each byte of an integer, and the fields that stand at
the header's offsets. -/

namespace Sys2Proof.Machine

/-! ### The bytes of an integer -/

/-- Byte `k` of a word, counted from the least significant, is its digit of weight 256^k. -/
theorem toNat_extractLsb'_byte {w : Nat} (v : BitVec w) (k : Nat) :
    (v.extractLsb' (8 * k) 8).toNat = v.toNat / 256 ^ k % 256 := by
  rw [BitVec.extractLsb'_toNat, Nat.shiftRight_eq_div_pow, Nat.pow_mul]

theorem be4_eq_map (v : Word) : be4 v = (List.range 4).map fun i => v.extractLsb' (8 * (3 - i)) 8 := rfl

theorem be8_eq_map (v : Double) : be8 v = (List.range 8).map fun i => v.extractLsb' (8 * (7 - i)) 8 := rfl

/-- Byte `i` of `be_4` has weight 256^(3-i) (R95). -/
theorem toNat_getElem?_be4 (v : Word) {i : Nat} (hi : i < 4) :
    ((be4 v)[i]?).map BitVec.toNat = some (v.toNat / 256 ^ (3 - i) % 256) := by
  rw [be4_eq_map, List.getElem?_map, List.getElem?_range hi, Option.map_some, Option.map_some, toNat_extractLsb'_byte]

/-- Byte `i` of `be_8` has weight 256^(7-i) (R95). -/
theorem toNat_getElem?_be8 (v : Double) {i : Nat} (hi : i < 8) :
    ((be8 v)[i]?).map BitVec.toNat = some (v.toNat / 256 ^ (7 - i) % 256) := by
  rw [be8_eq_map, List.getElem?_map, List.getElem?_range hi, Option.map_some, Option.map_some, toNat_extractLsb'_byte]

theorem be4_injective : Function.Injective be4 := fun v w h =>
  BitVec.eq_of_toNat_eq (by rw [← unbe_be4 v, h, unbe_be4])

theorem be8_injective : Function.Injective be8 := fun v w h =>
  BitVec.eq_of_toNat_eq (by rw [← unbe_be8 v, h, unbe_be8])

/-! ### The fields at their offsets -/

/-- The header fields that stand in `b` at the offsets of R90 are those given (R93). -/
def HeaderAt (b : Bytes) : Header → Prop
  | (ver, sid, intent, prio, flags, seq, n, ts) =>
    b[0]? = some ver ∧ (b.drop 1).take 16 = sid.toList ∧ b[17]? = some intent ∧ b[18]? = some prio ∧
      b[19]? = some flags ∧ (b.drop 20).take 4 = be4 seq ∧ (b.drop 24).take 4 = be4 n ∧ (b.drop 28).take 8 = be8 ts

/-- A sequence has one header. -/
theorem HeaderAt.unique {b : Bytes} {h h' : Header} (hb : HeaderAt b h) (hb' : HeaderAt b h') : h = h' := by
  obtain ⟨ver, sid, intent, prio, flags, seq, n, ts⟩ := h
  obtain ⟨ver', sid', intent', prio', flags', seq', n', ts'⟩ := h'
  obtain ⟨hver, hsid, hintent, hprio, hflags, hseq, hn, hts⟩ := hb
  obtain ⟨hver', hsid', hintent', hprio', hflags', hseq', hn', hts'⟩ := hb'
  obtain rfl := Option.some.inj (hver.symm.trans hver')
  obtain rfl := Vector.toList_inj.mp (hsid.symm.trans hsid')
  obtain rfl := Option.some.inj (hintent.symm.trans hintent')
  obtain rfl := Option.some.inj (hprio.symm.trans hprio')
  obtain rfl := Option.some.inj (hflags.symm.trans hflags')
  obtain rfl := be4_injective (hseq.symm.trans hseq')
  obtain rfl := be4_injective (hn.symm.trans hn')
  obtain rfl := be8_injective (hts.symm.trans hts')
  rfl

/-- Whatever follows a serialized header, its fields stand at their offsets (R91, R93). -/
theorem headerAt_hdr_append (h : Header) (rest : Bytes) : HeaderAt (hdr h ++ rest) h := by
  obtain ⟨ver, sid, intent, prio, flags, seq, n, ts⟩ := h
  have hsid : sid.toList.length = 16 := by simp
  have hafter (k : Nat) (hk : 16 ≤ k) : sid.toList.drop k = [] := List.drop_of_length_le (by omega)
  refine ⟨?_, ?_, ?_, ?_, ?_, ?_, ?_, ?_⟩ <;> simp [hdr, be4, be8, List.drop_append, List.getElem?_append, hafter]

theorem take_drop_one {b : Bytes} {k : Nat} {x : Byte} (h : b[k]? = some x) : (b.drop k).take 1 = [x] := by
  rw [List.take_one, List.head?_drop, h, Option.toList_some]

/-- The fields that stand in a sequence serialize to its first 36 bytes (R94). -/
theorem HeaderAt.hdr_eq_take {b : Bytes} {h : Header} (hb : HeaderAt b h) : hdr h = b.take 36 := by
  obtain ⟨ver, sid, intent, prio, flags, seq, n, ts⟩ := h
  obtain ⟨hver, hsid, hintent, hprio, hflags, hseq, hn, hts⟩ := hb
  have hcut : b.take 36 = b.take 1 ++ (b.drop 1).take 16 ++ (b.drop 17).take 1 ++ (b.drop 18).take 1 ++
      (b.drop 19).take 1 ++ (b.drop 20).take 4 ++ (b.drop 24).take 4 ++ (b.drop 28).take 8 := by
    simp only [← List.take_add, Nat.reduceAdd]
  have hfirst : b.take 1 = [ver] := take_drop_one hver
  rw [hcut, hfirst, hsid, take_drop_one hintent, take_drop_one hprio, take_drop_one hflags, hseq, hn, hts]
  rfl

theorem hdr_injective : Function.Injective hdr := fun h h' heq => by
  have hb := headerAt_hdr_append h []
  rw [heq] at hb
  exact hb.unique (headerAt_hdr_append h' [])

/-- The header made of the fields read from a sequence of at least 36 bytes stands in it (R93, R95). -/
theorem headerAt_of_fields {b : Bytes} {ver intent prio flags : Byte} {sid : SessionId} (hlen : 36 ≤ b.length)
    (hver : b[0]? = some ver) (hsid : (b.drop 1).take 16 = sid.toList) (hintent : b[17]? = some intent)
    (hprio : b[18]? = some prio) (hflags : b[19]? = some flags) :
    HeaderAt b (ver, sid, intent, prio, flags, BitVec.ofNat 32 (unbe ((b.drop 20).take 4)),
      BitVec.ofNat 32 (unbe ((b.drop 24).take 4)), BitVec.ofNat 64 (unbe ((b.drop 28).take 8))) := by
  have hslice (a k : Nat) (h : a + k ≤ 36) : ((b.drop a).take k).length = k := by
    rw [List.length_take, List.length_drop]
    omega
  exact ⟨hver, hsid, hintent, hprio, hflags, (be4_ofNat_unbe (hslice 20 4 (by omega))).symm,
    (be4_ofNat_unbe (hslice 24 4 (by omega))).symm, (be8_ofNat_unbe (hslice 28 8 (by omega))).symm⟩

end Sys2Proof.Machine
end

section
/-! SUPPORT. The statements about the encodings (`30_encoding.md`), settled. -/

namespace Sys2Proof.Machine

/-- Settles O7: the reserved words are those whose opcode and imm8 encode no command, and the step refuses these. -/
theorem reservedWordsAreRefused : Obligations.ReservedWordsAreRefused := by
  unfold Obligations.ReservedWordsAreRefused
  intro s op imm8 reserved
  have hnone : commandOf op imm8 = none ↔ reserved := commandOf_eq_none_iff op imm8
  refine ⟨?_, fun h => step_reserved s op imm8 (hnone.mpr h)⟩
  rw [wordOf_eq_ofNat, decode_ne_ok_iff]
  exact hnone.symm

/-- Settles O43: the fields that stand in a sequence are unique, are those of a serialized header, and serialize to the
first 36 bytes; payload and hash are what follows. -/
theorem headerFieldsAreRecoveredFromTheBytes : Obligations.HeaderFieldsAreRecoveredFromTheBytes := by
  unfold Obligations.HeaderFieldsAreRecoveredFromTheBytes
  refine ⟨fun _ _ h => hdr_injective h, ?_, ?_⟩
  · intro ver sid intent prio flags seq n ts payload hash hpayload b
    have hassoc : b = hdr _ ++ (payload ++ hash.toList) := List.append_assoc ..
    obtain ⟨hver, hsid, hintent, hprio, hflags, hseq, hn, hts⟩ := hassoc ▸ headerAt_hdr_append _ _
    refine ⟨?_, hver, hsid, hintent, hprio, hflags, ?_, ?_, ?_, ?_, ?_⟩
    · simp [b, hpayload, Nat.add_assoc]
    · rw [hseq, unbe_be4]
    · rw [hn, unbe_be4]
    · rw [hts, unbe_be8]
    · rw [hassoc, List.drop_left' (length_hdr _), List.take_left' hpayload]
    · exact List.drop_left' (by rw [List.length_append, length_hdr, hpayload])
  · rintro b ver intent prio flags sid n hver hsid hintent hprio hflags rfl hlen
    have hat := headerAt_of_fields (by omega) hver hsid hintent hprio hflags
    rw [hat.hdr_eq_take, ← List.take_add, List.take_append_drop]

/-- Settles O48: each command ends in `finish`, in an error of its own, or in the refusal for an operand outside its
domain. -/
theorem commandsAreRefusedExactlyOutsideTheirDomain : Obligations.CommandsAreRefusedExactlyOutsideTheirDomain := by
  unfold Obligations.CommandsAreRefusedExactlyOutsideTheirDomain
  exact exec_endsRefusedUnless

/-- Settles O42: the byte weights, the two inverses, and the examples of R95. -/
theorem bigEndianIntegersAndTheirInverse : Obligations.BigEndianIntegersAndTheirInverse := by
  unfold Obligations.BigEndianIntegersAndTheirInverse
  exact ⟨fun v _ => toNat_getElem?_be4 v, fun v _ => toNat_getElem?_be8 v, unbe_be4, unbe_be8,
    fun _ => be4_ofNat_unbe, fun _ => be8_ofNat_unbe, by decide, by decide⟩

end Sys2Proof.Machine
end

section
/-! SUPPORT. The wire vocabulary (R140 to R149): the defined sets as lists of codes and as bounds on the whole byte, and
the RESULT of a check. -/

namespace Sys2Proof.Machine

/-! ### The defined sets -/

/-- The Compression codes are the bytes up to 3 (R143). -/
theorem mem_compCodes_iff (b : Byte) : b ∈ [0, 1, 2, 3] ↔ b ≤ 3 := by revert b; decide

/-- The EncryptionLevel codes are the bytes up to 2 (R145). -/
theorem mem_encCodes_iff (b : Byte) : b ∈ [0, 1, 2] ↔ b ≤ 2 := by revert b; decide

theorem intentFromCode_isSome_iff (p : Params) (b : Byte) : (intentFromCode p b).isSome ↔ p.intentDefined b :=
  Option.isSome_ite

theorem compFromCode_isSome_iff (b : Byte) : (compFromCode b).isSome ↔ b ≤ 3 := Option.isSome_ite

theorem encFromCode_isSome_iff (b : Byte) : (encFromCode b).isSome ↔ b ≤ 2 := Option.isSome_ite

/-! ### The answer of a check -/

theorem boolByte_eq_one_iff (b : Bool) : boolByte b = 1 ↔ b := by revert b; decide

/-- A truth value about a byte's number, as RESULT holds it (R37, R115). -/
theorem boolByte_decide_le (b c : Byte) : boolByte (decide (b ≤ c)) = if b.toNat ≤ c.toNat then 0x01 else 0x00 := by
  simp only [boolByte, decide_eq_true_eq, BitVec.le_def]

end Sys2Proof.Machine
end

section
/-! SUPPORT. The statements about the wire vocabulary (`40_vocabulary.md`), settled. -/

namespace Sys2Proof.Machine

/-- Settles O13: the Compression and EncryptionLevel codes are the bytes up to a bound, and each check answers whether its
type has the byte as a code. -/
theorem fromCodeIsPartialIdentityAndChkAnswersIt : Obligations.FromCodeIsPartialIdentityAndChkAnswersIt := by
  unfold Obligations.FromCodeIsPartialIdentityAndChkAnswersIt
  intro s b
  refine ⟨rfl, ?_, ?_, ⟨_, exec_chkIntent b s, ?_⟩, ⟨_, exec_chkComp b s, ?_⟩, ⟨_, exec_chkEnc b s, ?_⟩⟩
  · simp only [mem_compCodes_iff, compFromCode]
  · simp only [mem_encCodes_iff, encFromCode]
  · rw [State.finish_result, boolByte_eq_one_iff, intentFromCode_isSome_iff]
  · rw [State.finish_result, boolByte_eq_one_iff, compFromCode_isSome_iff, decide_eq_true_eq]
  · rw [State.finish_result, boolByte_eq_one_iff, encFromCode_isSome_iff, decide_eq_true_eq]

/-- Settles O11: the check answers membership by `finish`, and its word is opcode 0x10 with the byte. -/
theorem chkIntentAnswersMembership : Obligations.ChkIntentAnswersMembership := by
  unfold Obligations.ChkIntentAnswersMembership
  exact fun s imm8 => ⟨exec_chkIntent imm8 s, step_issue s 0x10 imm8 rfl, intentDefined_ping Config.marsh⟩

/-- Settles O12: both checks compare the whole byte with their bound, and their words are opcodes 0x11 and 0x12 with the
byte. -/
theorem chkCompAndChkEncTestTheWholeByte : Obligations.ChkCompAndChkEncTestTheWholeByte := by
  unfold Obligations.ChkCompAndChkEncTestTheWholeByte
  intro s imm8
  refine ⟨?_, step_issue s 0x11 imm8 rfl, ?_, step_issue s 0x12 imm8 rfl⟩
  · rw [exec_chkComp, boolByte_decide_le]
    rfl
  · rw [exec_chkEnc, boolByte_decide_le]
    rfl

end Sys2Proof.Machine
end

section
/-! SUPPORT. The flag byte (R110, R170) as five fields under disjoint masks: each setter replaces the bits under its own mask,
each getter looks at the bits under its own, so that R179 to R181 follow from the laws of `replace`. -/

namespace Sys2Proof.Machine.Flags

/-- The bits of `f` under the mask `m` replaced by those of `v`. -/
def replace {w : Nat} (m f v : BitVec w) : BitVec w := (f &&& ~~~m) ||| (v &&& m)

section
variable {w i : Nat} {m n f u v : BitVec w}

theorem getLsbD_replace (hi : i < w) :
    (replace m f v).getLsbD i = if m.getLsbD i then v.getLsbD i else f.getLsbD i := by
  rw [replace, BitVec.getLsbD_or, BitVec.getLsbD_and, BitVec.getLsbD_and, BitVec.getLsbD_not, decide_eq_true hi]
  cases m.getLsbD i <;> simp

/-- No bit lies under both of two disjoint masks. -/
theorem getLsbD_eq_false_of_disjoint (h : m &&& n = 0) (hn : n.getLsbD i = true) : m.getLsbD i = false := by
  have hbit : (m &&& n).getLsbD i = false := by rw [h]; exact BitVec.getLsbD_zero
  rwa [BitVec.getLsbD_and, hn, Bool.and_true] at hbit

/-- Under the mask stands the new value. -/
theorem replace_and_self : replace m f v &&& m = v &&& m := by
  refine BitVec.eq_of_getLsbD_eq fun i hi => ?_
  rw [BitVec.getLsbD_and, BitVec.getLsbD_and, getLsbD_replace hi]
  cases m.getLsbD i <;> simp

/-- Under a disjoint mask nothing changes. -/
theorem replace_and_of_disjoint (h : m &&& n = 0) : replace m f v &&& n = f &&& n := by
  refine BitVec.eq_of_getLsbD_eq fun i hi => ?_
  rw [BitVec.getLsbD_and, BitVec.getLsbD_and, getLsbD_replace hi]
  cases hn : n.getLsbD i with
  | false => rw [Bool.and_false, Bool.and_false]
  | true => rw [getLsbD_eq_false_of_disjoint h hn]; rfl

/-- The last value written stands. -/
theorem replace_replace_self : replace m (replace m f u) v = replace m f v := by
  refine BitVec.eq_of_getLsbD_eq fun i hi => ?_
  rw [getLsbD_replace hi, getLsbD_replace hi, getLsbD_replace hi]
  cases m.getLsbD i <;> rfl

/-- Disjoint fields are written in either order. -/
theorem replace_comm (h : m &&& n = 0) : replace m (replace n f v) u = replace n (replace m f u) v := by
  refine BitVec.eq_of_getLsbD_eq fun i hi => ?_
  rw [getLsbD_replace hi, getLsbD_replace hi, getLsbD_replace hi, getLsbD_replace hi]
  cases hn : n.getLsbD i with
  | false => rfl
  | true => rw [getLsbD_eq_false_of_disjoint h hn]; rfl

/-- Bits inverted outside the mask before are inverted bits afterwards. -/
theorem replace_xor (h : m &&& n = 0) : replace m (f ^^^ n) v = replace m f v ^^^ n := by
  refine BitVec.eq_of_getLsbD_eq fun i hi => ?_
  rw [BitVec.getLsbD_xor, getLsbD_replace hi, getLsbD_replace hi, BitVec.getLsbD_xor]
  cases hn : n.getLsbD i with
  | false => rw [Bool.xor_false, Bool.xor_false]
  | true => rw [getLsbD_eq_false_of_disjoint h hn]; rfl

/-- Bits inverted outside the mask do not show under it. -/
theorem xor_and_of_disjoint (h : n &&& m = 0) : (f ^^^ n) &&& m = f &&& m := by
  refine BitVec.eq_of_getLsbD_eq fun i hi => ?_
  rw [BitVec.getLsbD_and, BitVec.getLsbD_and, BitVec.getLsbD_xor]
  cases hm : m.getLsbD i with
  | false => rw [Bool.and_false, Bool.and_false]
  | true => rw [getLsbD_eq_false_of_disjoint h hm, Bool.xor_false]

end

/-! ### Each setter, on an operand of its domain (R122), replaces one field (R172, R174, R176, R178) -/

theorem setComp_eq_replace (f : Byte) {c : Byte} (hc : c ≤ 3) : setComp f c = replace 0x07 f c := by
  have : c &&& 0x07 = c := by revert c; decide
  rw [replace, this]; rfl

theorem setEnc_eq_replace (f : Byte) {e : Byte} (he : e ≤ 2) : setEnc f e = replace 0x18 f (e <<< 3) := by
  have : e <<< 3 &&& (0x18 : Byte) = e <<< 3 := by revert e; decide
  rw [replace, this]; rfl

theorem setFrag_eq_replace (f : Byte) {b : Byte} (hb : b ≤ 1) : setFrag f b = replace 0x20 f (b <<< 5) := by
  have : b <<< 5 &&& (0x20 : Byte) = b <<< 5 := by revert b; decide
  rw [replace, this]; rfl

theorem setAck_eq_replace (f : Byte) {b : Byte} (hb : b ≤ 1) : setAck f b = replace 0x40 f (b <<< 6) := by
  have : b <<< 6 &&& (0x40 : Byte) = b <<< 6 := by revert b; decide
  rw [replace, this]; rfl

/-! ### Each getter reads one field (R171, R173, R175, R177) -/

section
variable {f g : Byte}

theorem getComp_congr (h : f &&& 0x07 = g &&& 0x07) : getComp f = getComp g := by simp only [getComp, h]

theorem getEnc_congr (h : f &&& 0x18 = g &&& 0x18) : getEnc f = getEnc g := by simp only [getEnc, h]

theorem getFrag_congr (h : f &&& 0x20 = g &&& 0x20) : getFrag f = getFrag g := by simp only [getFrag, h]

theorem getAck_congr (h : f &&& 0x40 = g &&& 0x40) : getAck f = getAck g := by simp only [getAck, h]

theorem getFrag_eq_ite (f : Byte) : getFrag f = if f.getLsbD 5 then 0x01 else 0x00 := by revert f; decide

theorem getAck_eq_ite (f : Byte) : getAck f = if f.getLsbD 6 then 0x01 else 0x00 := by revert f; decide

/-! ### Read-back (R180 (1)) -/

theorem getComp_replace {c : Byte} (hc : c ≤ 3) : getComp (replace 0x07 f c) = c :=
  (getComp_congr replace_and_self).trans (by revert c; decide)

theorem getEnc_replace {e : Byte} (he : e ≤ 2) : getEnc (replace 0x18 f (e <<< 3)) = e :=
  (getEnc_congr replace_and_self).trans (by revert e; decide)

theorem getFrag_replace {b : Byte} (hb : b ≤ 1) : getFrag (replace 0x20 f (b <<< 5)) = b :=
  (getFrag_congr replace_and_self).trans (by revert b; decide)

theorem getAck_replace {b : Byte} (hb : b ≤ 1) : getAck (replace 0x40 f (b <<< 6)) = b :=
  (getAck_congr replace_and_self).trans (by revert b; decide)

end

/-- The byte of R181: each operand survives the masks of the setters after it. -/
theorem setAck_setFrag_setEnc_setComp (f : Byte) {c e b1 : Byte} (hc : c ≤ 3) (he : e ≤ 2) (hb1 : b1 ≤ 1) (b2 : Byte) :
    setAck (setFrag (setEnc (setComp f c) e) b1) b2 =
      (f &&& 0x80) ||| (b2 <<< 6) ||| (b1 <<< 5) ||| (e <<< 3) ||| c := by
  have hf : f &&& 0xF8 &&& 0xE7 &&& 0xDF &&& 0xBF = f &&& 0x80 := by simp only [BitVec.and_assoc]; rfl
  have hc' : c &&& 0xE7 &&& 0xDF &&& 0xBF = c := by revert c; decide
  have he' : e <<< 3 &&& (0xDF : Byte) &&& (0xBF : Byte) = e <<< 3 := by revert e; decide
  have hb' : b1 <<< 5 &&& (0xBF : Byte) = b1 <<< 5 := by revert b1; decide
  change (((f &&& (0xF8 : Byte) ||| c) &&& (0xE7 : Byte) ||| e <<< 3) &&& (0xDF : Byte) ||| b1 <<< 5) &&& (0xBF : Byte)
    ||| b2 <<< 6 = f &&& (0x80 : Byte) ||| b2 <<< 6 ||| b1 <<< 5 ||| e <<< 3 ||| c
  simp only [BitVec.and_or_distrib_right, hf, hc', he', hb']
  ac_rfl

end Sys2Proof.Machine.Flags
end

section
/-! SUPPORT. The flag byte commands (R171 to R178): what a setter does inside and outside its domain, that no command of the
vocabulary or the flag byte looks at bit 7 of FLAGS (R179), and what a sequence of setters does (R181). -/

namespace Sys2Proof.Machine

open Flags

/-! ### One setter, one refused getter word -/

/-- A setter whose domain is the bytes up to `k` writes FLAGS there, and elsewhere is refused with FLAGS kept (R122). -/
theorem exec_setter_cases {i : Instr} {k imm8 : Byte} {g : Byte → Byte}
    (hexec : ∀ s, exec i s = .next (s.updateFlags (decide (imm8 ≤ k)) (g s.flags))) (s : State) :
    (imm8.toNat ≤ k.toNat →
      exec i s = .next { s with flags := g s.flags, result := 0x00, errByte := 0x00, status := 0x00 }) ∧
    (k.toNat < imm8.toNat → exec i s = .next { s with status := 0xFF, errByte := 0x00, result := 0x00 }) := by
  rw [hexec]
  constructor
  · intro h
    rw [decide_eq_true (BitVec.le_def.mpr h)]
    rfl
  · intro h
    rw [decide_eq_false fun hle => Nat.not_le.mpr h (BitVec.le_def.mp hle)]
    rfl

/-- The word of a getter with a non-zero imm8 is reserved, and so refused (R123, R280). -/
theorem step_getter_operand {op : Byte} (hop : op ∈ [0x20, 0x22, 0x24, 0x26]) {k : Nat} (hpos : 0 < k) (hlt : k < 256)
    (s : State) : step (s.withFetchWord 16 (op.toNat * 256 + k)) = .next (s.raise .refused) := by
  have hk : (BitVec.ofNat 8 k).toNat = k := Nat.mod_eq_of_lt hlt
  have hne : BitVec.ofNat 8 k ≠ 0x00 := fun h => hpos.ne' (hk.symm.trans (congrArg BitVec.toNat h))
  have hmem : op ∈ [0x20, 0x22, 0x24, 0x26, 0x31, 0x32, 0x33] := List.mem_append_left [0x31, 0x32, 0x33] hop
  have h := step_reserved s op (BitVec.ofNat 8 k) ((commandOf_eq_none_iff _ _).mpr (.inr ⟨hmem, hne⟩))
  rwa [hk] at h

/-! ### Bit 7 of FLAGS (R179) -/

/-- The state with bit 7 of FLAGS inverted. -/
def State.flipReserved (s : State) : State := { s with flags := s.flags ^^^ 0x80 }

/-- The command keeps bit 7 of FLAGS, and does the same when it is inverted. -/
def IgnoresReservedBit (i : Instr) : Prop :=
  ∀ s : State, ∃ t, exec i s = .next t ∧ t.flags.getLsbD 7 = s.flags.getLsbD 7 ∧
    exec i s.flipReserved = .next t.flipReserved

/-- A command that answers in RESULT something that does not show bit 7. -/
theorem ignoresReservedBit_of_finish {i : Instr} {r : Byte → Byte} (hexec : ∀ s, exec i s = .next (s.finish (r s.flags)))
    (hr : ∀ f, r (f ^^^ 0x80) = r f) : IgnoresReservedBit i := by
  refine fun s => ⟨_, hexec s, rfl, ?_⟩
  have hflip : r s.flipReserved.flags = r s.flags := hr s.flags
  rw [hexec, hflip]
  rfl

/-- A setter that, inside its domain, replaces the bits under a mask without bit 7. -/
theorem ignoresReservedBit_of_updateFlags {i : Instr} {d : Bool} {g : Byte → Byte} {m v : Byte}
    (hexec : ∀ s, exec i s = .next (s.updateFlags d (g s.flags))) (hg : d = true → ∀ f, g f = replace m f v)
    (hm : m &&& 0x80 = 0) : IgnoresReservedBit i := by
  intro s
  cases d with
  | false => exact ⟨_, hexec s, rfl, hexec s.flipReserved⟩
  | true =>
    have hbit : m.getLsbD 7 = false := getLsbD_eq_false_of_disjoint hm rfl
    have hflip : g s.flipReserved.flags = g s.flags ^^^ 0x80 := by
      rw [hg rfl, hg rfl]
      exact replace_xor hm
    refine ⟨_, hexec s, ?_, ?_⟩
    · change (g s.flags).getLsbD 7 = s.flags.getLsbD 7
      rw [hg rfl, getLsbD_replace (by decide), hbit]
      rfl
    · rw [hexec, hflip]
      rfl

theorem ignoresReservedBit_chkIntent (b : Byte) : IgnoresReservedBit (.chkIntent b) :=
  ignoresReservedBit_of_finish (r := fun _ => boolByte (Config.marsh.intentDefined b)) (exec_chkIntent b) fun _ => rfl

theorem ignoresReservedBit_chkComp (b : Byte) : IgnoresReservedBit (.chkComp b) :=
  ignoresReservedBit_of_finish (r := fun _ => boolByte (decide (b ≤ 3))) (exec_chkComp b) fun _ => rfl

theorem ignoresReservedBit_chkEnc (b : Byte) : IgnoresReservedBit (.chkEnc b) :=
  ignoresReservedBit_of_finish (r := fun _ => boolByte (decide (b ≤ 2))) (exec_chkEnc b) fun _ => rfl

theorem ignoresReservedBit_getComp : IgnoresReservedBit .getComp :=
  ignoresReservedBit_of_finish exec_getComp fun _ => getComp_congr (xor_and_of_disjoint rfl)

theorem ignoresReservedBit_getEnc : IgnoresReservedBit .getEnc :=
  ignoresReservedBit_of_finish exec_getEnc fun _ => getEnc_congr (xor_and_of_disjoint rfl)

theorem ignoresReservedBit_getFrag : IgnoresReservedBit .getFrag :=
  ignoresReservedBit_of_finish exec_getFrag fun _ => getFrag_congr (xor_and_of_disjoint rfl)

theorem ignoresReservedBit_getAck : IgnoresReservedBit .getAck :=
  ignoresReservedBit_of_finish exec_getAck fun _ => getAck_congr (xor_and_of_disjoint rfl)

theorem ignoresReservedBit_setComp (b : Byte) : IgnoresReservedBit (.setComp b) :=
  ignoresReservedBit_of_updateFlags (exec_setComp b) (fun h f => setComp_eq_replace f (of_decide_eq_true h)) rfl

theorem ignoresReservedBit_setEnc (b : Byte) : IgnoresReservedBit (.setEnc b) :=
  ignoresReservedBit_of_updateFlags (exec_setEnc b) (fun h f => setEnc_eq_replace f (of_decide_eq_true h)) rfl

theorem ignoresReservedBit_setFrag (b : Byte) : IgnoresReservedBit (.setFrag b) :=
  ignoresReservedBit_of_updateFlags (exec_setFrag b) (fun h f => setFrag_eq_replace f (of_decide_eq_true h)) rfl

theorem ignoresReservedBit_setAck (b : Byte) : IgnoresReservedBit (.setAck b) :=
  ignoresReservedBit_of_updateFlags (exec_setAck b) (fun h f => setAck_eq_replace f (of_decide_eq_true h)) rfl

/-! ### Sequences of setters (R181) -/

/-- The flag byte a setter makes of `f` when its operand is in its domain. -/
def Flags.set (f : Byte) : Instr → Byte
  | .setComp c => setComp f c
  | .setEnc e => setEnc f e
  | .setFrag b => setFrag f b
  | .setAck b => setAck f b
  | _ => f

/-- A command that writes FLAGS by `Flags.set` and ends well: a setter with its operand in its domain. -/
def SetsFlags (i : Instr) : Prop :=
  ∀ s : State, exec i s = .next (State.finish 0x00 { s with flags := Flags.set s.flags i })

theorem setsFlags_of_updateFlags {i : Instr} {d : Bool}
    (hexec : ∀ s : State, exec i s = .next (s.updateFlags d (Flags.set s.flags i))) (hd : d = true) : SetsFlags i := by
  subst hd
  exact hexec

/-- Setters one after another fold their effect on FLAGS and touch nothing else (R172, R320). -/
theorem execAll_of_setsFlags (i : Instr) (is : List Instr) (s : State) (h : ∀ j ∈ i :: is, SetsFlags j) :
    execAll (i :: is) s = .next (State.finish 0x00 { s with flags := (i :: is).foldl Flags.set s.flags }) := by
  induction is generalizing i s with
  | nil => rw [execAll, h i (by simp)]; rfl
  | cons j js ih =>
    rw [execAll, h i (by simp)]
    exact ih j _ fun k hk => h k (List.mem_cons_of_mem i hk)

/-- Setters `i` and `j` have one effect on FLAGS in both orders. -/
def FlagsCommute (i j : Instr) : Prop := ∀ f : Byte, Flags.set (Flags.set f i) j = Flags.set (Flags.set f j) i

section
variable {c e b1 b2 : Byte} (hc : c ≤ 3) (he : e ≤ 2) (hb1 : b1 ≤ 1) (hb2 : b2 ≤ 1)
include hc he hb1 hb2

theorem setsFlags_of_mem_setters {i : Instr} (hi : i ∈ [Instr.setComp c, .setEnc e, .setFrag b1, .setAck b2]) :
    SetsFlags i := by
  have hall : ∀ j ∈ [Instr.setComp c, .setEnc e, .setFrag b1, .setAck b2], SetsFlags j := by
    simp only [List.forall_mem_cons]
    exact ⟨setsFlags_of_updateFlags (exec_setComp c) (decide_eq_true hc),
      setsFlags_of_updateFlags (exec_setEnc e) (decide_eq_true he),
      setsFlags_of_updateFlags (exec_setFrag b1) (decide_eq_true hb1),
      setsFlags_of_updateFlags (exec_setAck b2) (decide_eq_true hb2), List.forall_mem_nil _⟩
  exact hall i hi

/-- Two setters are one and the same or write disjoint fields (R180 (5)). -/
theorem flagsCommute_of_mem_setters {i j : Instr} (hi : i ∈ [Instr.setComp c, .setEnc e, .setFrag b1, .setAck b2])
    (hj : j ∈ [Instr.setComp c, .setEnc e, .setFrag b1, .setAck b2]) : FlagsCommute i j := by
  have hpairs : [Instr.setComp c, .setEnc e, .setFrag b1, .setAck b2].Pairwise FlagsCommute := by
    simp only [List.pairwise_cons, List.forall_mem_cons, FlagsCommute, Flags.set, setComp_eq_replace _ hc,
      setEnc_eq_replace _ he, setFrag_eq_replace _ hb1, setAck_eq_replace _ hb2]
    exact ⟨⟨fun _ => replace_comm rfl, fun _ => replace_comm rfl, fun _ => replace_comm rfl, List.forall_mem_nil _⟩,
      ⟨fun _ => replace_comm rfl, fun _ => replace_comm rfl, List.forall_mem_nil _⟩,
      ⟨fun _ => replace_comm rfl, List.forall_mem_nil _⟩, List.forall_mem_nil _, List.Pairwise.nil⟩
  have hsymm : Std.Symm FlagsCommute := ⟨fun _ _ h f => (h f).symm⟩
  exact hpairs.forall_of_forall (fun _ _ _ => rfl) hi hj

end

end Sys2Proof.Machine
end

section
/-! SUPPORT. The statements about the flag byte (`41_flag_byte.md`), settled. -/

namespace Sys2Proof.Machine

open Flags

/-- Settles O18: the four setters replace fields under disjoint masks, and each getter reads the bits of one of these. -/
theorem flagFunctionsAreIndependentFields : Obligations.FlagFunctionsAreIndependentFields := by
  unfold Obligations.FlagFunctionsAreIndependentFields
  intro f c c' e e' b b' hc hc' he he' hb hb'
  simp only [setComp_eq_replace _ hc, setComp_eq_replace _ hc', setEnc_eq_replace _ he, setEnc_eq_replace _ he',
    setFrag_eq_replace _ hb, setFrag_eq_replace _ hb', setAck_eq_replace _ hb, setAck_eq_replace _ hb']
  refine ⟨⟨getComp_replace hc, getEnc_replace he, getFrag_replace hb, getAck_replace hb⟩, ?_, ?_, ?_, ?_⟩
  · exact ⟨replace_and_of_disjoint rfl, replace_and_of_disjoint rfl, replace_and_of_disjoint rfl,
      replace_and_of_disjoint rfl⟩
  · exact ⟨getEnc_congr (replace_and_of_disjoint rfl), getFrag_congr (replace_and_of_disjoint rfl),
      getAck_congr (replace_and_of_disjoint rfl), getComp_congr (replace_and_of_disjoint rfl),
      getFrag_congr (replace_and_of_disjoint rfl), getAck_congr (replace_and_of_disjoint rfl),
      getComp_congr (replace_and_of_disjoint rfl), getEnc_congr (replace_and_of_disjoint rfl),
      getAck_congr (replace_and_of_disjoint rfl), getComp_congr (replace_and_of_disjoint rfl),
      getEnc_congr (replace_and_of_disjoint rfl), getFrag_congr (replace_and_of_disjoint rfl)⟩
  · exact ⟨replace_replace_self, replace_replace_self, replace_replace_self, replace_replace_self⟩
  · exact ⟨replace_comm rfl, replace_comm rfl, replace_comm rfl, replace_comm rfl, replace_comm rfl, replace_comm rfl⟩

/-- Settles O19: each setter in its domain only folds its effect into FLAGS, the effects commute, and the given order makes
the byte of R181. -/
theorem settersInAnyOrderGiveOneFlagByte : Obligations.SettersInAnyOrderGiveOneFlagByte := by
  unfold Obligations.SettersInAnyOrderGiveOneFlagByte
  intro s c e b1 b2 is hc he hb1 hb2 hperm
  have hsets : ∀ i ∈ is, SetsFlags i := fun i hi =>
    setsFlags_of_mem_setters hc he hb1 hb2 (hperm.mem_iff.mp hi)
  have hfold : is.foldl Flags.set s.flags = (s.flags &&& 0x80) ||| (b2 <<< 6) ||| (b1 <<< 5) ||| (e <<< 3) ||| c :=
    (hperm.symm.foldl_eq' (fun _ hi _ hj f => flagsCommute_of_mem_setters hc he hb1 hb2 hi hj f) s.flags).symm.trans
      (setAck_setFrag_setEnc_setComp s.flags hc he hb1 b2)
  cases is with
  | nil => exact nomatch hperm.nil_eq
  | cons i is =>
    rw [execAll_of_setsFlags i is s hsets, hfold]
    rfl

/-- Settles O20: the checks and getters end in `finish` with a RESULT that does not show bit 7, and the setters write under
masks without it. -/
theorem reservedFlagBitIsNeverInterpreted : Obligations.ReservedFlagBitIsNeverInterpreted := by
  unfold Obligations.ReservedFlagBitIsNeverInterpreted
  intro s b i hi
  have hall : ∀ j ∈ [Instr.chkIntent b, .chkComp b, .chkEnc b, .getComp, .setComp b, .getEnc, .setEnc b, .getFrag,
      .setFrag b, .getAck, .setAck b], IgnoresReservedBit j := by
    simp only [List.forall_mem_cons]
    exact ⟨ignoresReservedBit_chkIntent b, ignoresReservedBit_chkComp b, ignoresReservedBit_chkEnc b,
      ignoresReservedBit_getComp, ignoresReservedBit_setComp b, ignoresReservedBit_getEnc, ignoresReservedBit_setEnc b,
      ignoresReservedBit_getFrag, ignoresReservedBit_setFrag b, ignoresReservedBit_getAck, ignoresReservedBit_setAck b,
      List.forall_mem_nil _⟩
  exact hall i hi s

/-- Settles O14: both getters end in `finish`, their words are opcodes 0x20 and 0x22 with imm8 zero, and other imm8 are
reserved. -/
theorem enumGettersReadTheirOwnBitsWithFallback : Obligations.EnumGettersReadTheirOwnBitsWithFallback := by
  unfold Obligations.EnumGettersReadTheirOwnBitsWithFallback
  exact fun s => ⟨exec_getComp s, step_issue s 0x20 0x00 rfl, exec_getEnc s, step_issue s 0x22 0x00 rfl,
    fun _ hpos hlt => ⟨step_getter_operand (op := 0x20) (by decide) hpos hlt s,
      step_getter_operand (op := 0x22) (by decide) hpos hlt s⟩⟩

/-- Settles O15: both getters answer one bit by `finish`, their words are opcodes 0x24 and 0x26 with imm8 zero, and other
imm8 are reserved. -/
theorem booleanGettersReadTheirOwnBit : Obligations.BooleanGettersReadTheirOwnBit := by
  unfold Obligations.BooleanGettersReadTheirOwnBit
  intro s
  refine ⟨?_, step_issue s 0x24 0x00 rfl, ?_, step_issue s 0x26 0x00 rfl,
    fun _ hpos hlt => ⟨step_getter_operand (op := 0x24) (by decide) hpos hlt s,
      step_getter_operand (op := 0x26) (by decide) hpos hlt s⟩⟩
  · rw [exec_getFrag, getFrag_eq_ite]
    rfl
  · rw [exec_getAck, getAck_eq_ite]
    rfl

/-- Settles O16: both are setters, with the codes up to 3 and up to 2 as domains and opcodes 0x21 and 0x23. -/
theorem enumSettersWriteTheirOwnBitsOnly : Obligations.EnumSettersWriteTheirOwnBitsOnly := by
  unfold Obligations.EnumSettersWriteTheirOwnBitsOnly
  intro s imm8
  obtain ⟨hcomp, hcomp'⟩ := exec_setter_cases (g := (setComp · imm8)) (exec_setComp imm8) s
  obtain ⟨henc, henc'⟩ := exec_setter_cases (g := (setEnc · imm8)) (exec_setEnc imm8) s
  exact ⟨hcomp, hcomp', step_issue s 0x21 imm8 rfl, henc, henc', step_issue s 0x23 imm8 rfl⟩

/-- Settles O17: both are setters, with the booleans as domain and opcodes 0x25 and 0x27. -/
theorem booleanSettersWriteTheirOwnBitOnly : Obligations.BooleanSettersWriteTheirOwnBitOnly := by
  unfold Obligations.BooleanSettersWriteTheirOwnBitOnly
  intro s imm8
  obtain ⟨hfrag, hfrag'⟩ := exec_setter_cases (g := (setFrag · imm8)) (exec_setFrag imm8) s
  obtain ⟨hack, hack'⟩ := exec_setter_cases (g := (setAck · imm8)) (exec_setAck imm8) s
  exact ⟨hfrag, hfrag', step_issue s 0x25 imm8 rfl, hack, hack', step_issue s 0x27 imm8 rfl⟩

end Sys2Proof.Machine
end

section
/-! SUPPORT. The integrity unit (R200 to R207) on an altered encoding: the hash field of W is one value of its 32 bytes, so
bytes that passed the six checks of DECODE fail the sixth once the field alone is altered. -/

namespace Sys2Proof.Machine

variable {p : Params} {s t : State} {m : Memory} {a n : Nat}

/-- A stretch of W taken as a vector determines each of its bytes (R61). -/
theorem State.readW_eq_of_wireVector_eq (h : s.wireVector p a n = t.wireVector p a n) {i : Nat} (hi : i < n) :
    s.readW p (a + i) = t.readW p (a + i) := by
  simpa [State.wireVector] using congrArg (·[i]) h

/-- The hash check 6 compares with changes with any byte of W[36+n..68+n) (R246). -/
theorem State.carriedHash_withWire_ne
    (h : ∃ a, 36 + n ≤ a ∧ a < 68 + n ∧ (s.withWire m).readW p a ≠ s.readW p a) :
    (s.withWire m).carriedHash p n ≠ s.carriedHash p n := by
  obtain ⟨a, hlo, hhi, hne⟩ := h
  intro heq
  have hbyte := State.readW_eq_of_wireVector_eq heq (i := a - (36 + n)) (by omega)
  rw [headerLen_eq, Nat.add_sub_cancel' hlo] at hbyte
  exact hne hbyte

/-- Bytes that pass the six checks fail the sixth once nothing but their hash field is altered: checks 1 to 5 and the digest
are over unaltered bytes (R207, R246). -/
theorem decodeChecks_withWire_invalidHash (hok : decodeChecks p s = .ok n)
    (hbody : ∀ a < 36 + n, (s.withWire m).readW p a = s.readW p a)
    (hfield : ∃ a, 36 + n ≤ a ∧ a < 68 + n ∧ (s.withWire m).readW p a ≠ s.readW p a) :
    decodeChecks p (s.withWire m) = .error .invalidHash := by
  obtain ⟨hmin, hmax, hver, hintent, rfl, hlen, hhash⟩ := (decodeChecks_ok_iff p s n).mp hok
  have hdecl : (s.withWire m).declaredLen p = s.declaredLen p := State.declaredLen_withWire fun i _ => hbody _ (by omega)
  have hdiff : (s.withWire m).wireHash p (s.declaredLen p) ≠ (s.withWire m).carriedHash p (s.declaredLen p) := by
    rw [State.wireHash_withWire hbody, hhash]
    exact (State.carriedHash_withWire_ne hfield).symm
  rw [State.inputLen] at hmin hmax hlen
  rw [decodeChecks_eq, State.withWire_wireLen, hbody 0 (by omega), hbody 17 (by omega), hdecl, if_neg (by omega),
    if_neg (by omega), if_neg (not_not.mpr hver), if_neg (by simp [hintent]), if_neg (by omega), if_pos hdiff]

end Sys2Proof.Machine
end

section
/-! SUPPORT. The statement about the integrity unit (`42_integrity_unit.md`), settled. -/

namespace Sys2Proof.Machine

/-- Settles O37: an encoding passes the six checks, and only its hash field is altered, so check 6 is the one that fails. -/
theorem alteredHashFieldIsAlwaysRejected : Obligations.AlteredHashFieldIsAlwaysRejected := by
  unfold Obligations.AlteredHashFieldIsAlwaysRejected
  intro s t m hinv henc hbody hfield
  rw [exec_encode] at henc
  cases henc
  have hok := decodeChecks_encodeWith Config.marsh s hinv.intent_defined hinv.payload_len_le
  have hchecks : decodeChecks Config.marsh ((encodeWith Config.marsh s).withWire m) = .error .invalidHash :=
    decodeChecks_withWire_invalidHash hok hbody hfield
  exact (exec_decode _).trans (congrArg Host.Outcome.next (decodeWith_of_error hchecks))

end Sys2Proof.Machine
end

section
/-! SUPPORT. The codec commands (R220 to R257): one rule per check of DECODE, the Packet that a DECODE loads, what CONSTRUCT
and ENCODE leave, and the round trip of ENCODE and DECODE. -/

namespace Sys2Proof.Machine

/-! ### Stretches of the memories byte by byte -/

section
variable (p : Params) (s : State)

theorem State.readWs_zero_eq_map (n : Nat) : s.readWs p 0 n = (List.range n).map (fun a => s.readW p a) := by
  rw [State.readWs_eq_map]
  simp only [Nat.zero_add]

theorem State.packetPayload_eq_map :
    s.packetPayload p = (List.range s.payloadLen.toNat).map (fun a => s.readP p a) := by
  rw [State.packetPayload, State.readPs_eq_map]
  simp only [Nat.zero_add]

/-- The hash input, field by field in wire order (R90, R92). -/
theorem State.ser_fields :
    ser (s.header p) (s.packetPayload p) =
      [p.supportedVersion] ++ s.sessionId.toList ++ [s.intent] ++ [s.priority] ++ [s.flags] ++ be4 s.sequence ++
        be4 s.payloadLen ++ be8 s.timestamp ++ (List.range s.payloadLen.toNat).map (fun a => s.readP p a) := by
  rw [State.packetPayload_eq_map]
  rfl

/-- Bytes written to P are read back whole (R73). -/
theorem State.readPs_writePs_self (a : Nat) (v : Bytes) : (s.writePs p a v).readPs p a v.length = v :=
  Memory.readBytes_writeBytes v s.payload a

/-- Check 6, byte by byte (R246). -/
theorem State.wireHash_eq_carriedHash_iff_map (n : Nat) :
    s.wireHash p n = s.carriedHash p n ↔
      (p.digest ((List.range (36 + n)).map (fun a => s.readW p a))).toList =
        (List.range 32).map (fun i => s.readW p (36 + n + i)) := by
  rw [State.wireHash_eq_carriedHash_iff, State.readWs_zero_eq_map, State.readWs_eq_map]

/-- The declared payload length by the weights of its four bytes (R93, R95). -/
theorem State.declaredLen_eq_weights :
    s.declaredLen p = (s.readW p 24).toNat * 16777216 + (s.readW p 25).toNat * 65536 + (s.readW p 26).toNat * 256 +
      (s.readW p 27).toNat := by
  have hbytes : s.readWs p 24 4 = [s.readW p 24, s.readW p 25, s.readW p 26, s.readW p 27] := rfl
  rw [State.declaredLen, hbytes]
  simp only [unbe, List.foldl_cons, List.foldl_nil]
  omega

end

/-! ### One rule per check of DECODE (R241 to R246) -/

section
variable {p : Params} {s : State} {n : Nat}

theorem decodeChecks_tooSmall (h : s.wireLen.toNat < 68) : decodeChecks p s = .error .tooSmall := if_pos h

theorem decodeChecks_tooLarge (h : 10485828 < s.wireLen.toNat) : decodeChecks p s = .error .tooLarge := by
  rw [decodeChecks_eq, if_neg (by omega), if_pos h]

theorem decodeChecks_unsupportedVersion (hmin : 68 ≤ s.wireLen.toNat) (hmax : s.wireLen.toNat ≤ 10485828)
    (h : s.readW p 0 ≠ p.supportedVersion) : decodeChecks p s = .error (.unsupportedVersion (s.readW p 0)) := by
  rw [decodeChecks_eq, if_neg (by omega), if_neg (by omega), if_pos h]

theorem decodeChecks_invalidIntent (hmin : 68 ≤ s.wireLen.toNat) (hmax : s.wireLen.toNat ≤ 10485828)
    (hver : s.readW p 0 = p.supportedVersion) (h : p.intentDefined (s.readW p 17) = false) :
    decodeChecks p s = .error (.invalidIntent (s.readW p 17)) := by
  rw [decodeChecks_eq, if_neg (by omega), if_neg (by omega), if_neg (not_not.mpr hver), if_pos h]

theorem decodeChecks_lengthMismatch (hmin : 68 ≤ s.wireLen.toNat) (hmax : s.wireLen.toNat ≤ 10485828)
    (hver : s.readW p 0 = p.supportedVersion) (hint : p.intentDefined (s.readW p 17) = true)
    (h : 36 + s.declaredLen p + 32 ≠ s.wireLen.toNat) : decodeChecks p s = .error .lengthMismatch := by
  rw [decodeChecks_eq, if_neg (by omega), if_neg (by omega), if_neg (not_not.mpr hver), if_neg (by simp [hint]),
    if_pos h]

/-- Past the first five checks the digest alone decides (R246). -/
theorem decodeChecks_of_length_eq (hlen : s.wireLen.toNat = 68 + n) (hmax : s.wireLen.toNat ≤ 10485828)
    (hver : s.readW p 0 = p.supportedVersion) (hint : p.intentDefined (s.readW p 17) = true)
    (hdecl : s.declaredLen p = n) :
    decodeChecks p s = if s.wireHash p n = s.carriedHash p n then .ok n else .error .invalidHash := by
  subst hdecl
  rw [decodeChecks_eq, if_neg (by omega), if_neg (by omega), if_neg (not_not.mpr hver), if_neg (by simp [hint]),
    if_neg (by omega), ite_not]

/-- The checks look at no more of the state than W, WIRE_LEN and what W's unwritten bytes depend on (R240). -/
theorem decodeChecks_congr {t : State} (hwire : t.wire = s.wire) (hlen : t.wireLen = s.wireLen)
    (hresets : t.resets = s.resets) : decodeChecks p t = decodeChecks p s := by
  obtain ⟨⟩ := t
  cases hwire
  cases hlen
  cases hresets
  rfl

/-- InvalidIntent is reported of an undefined byte 17 alone (R244). -/
theorem intentDefined_eq_false_of_status (h : (decodeWith p s).status = 0x04) :
    p.intentDefined (s.readW p 17) = false := by
  obtain ⟨e, he, hd⟩ | ⟨n, -, hd⟩ := decodeWith_cases p s <;> rw [hd] at h
  · obtain rfl | rfl | ⟨rfl, -⟩ | ⟨-, hint⟩ | rfl | rfl := decodeChecks_error p s he
    case inr.inr.inr.inl => exact hint
    all_goals simp [ErrorOutcome.code] at h
  · simp at h

theorem exec_decode_of_error {e : ErrorOutcome} (h : decodeChecks Config.marsh s = .error e) :
    exec .decode s = .next (s.raise e) :=
  congrArg Host.Outcome.next (decodeWith_of_error h)

theorem decodeWith_outcome_of_error {e : ErrorOutcome} (h : decodeChecks p s = .error e) :
    (decodeWith p s).status = e.code ∧ (decodeWith p s).errByte = e.info := by
  rw [decodeWith_of_error h]
  exact ⟨rfl, rfl⟩

/-- The outcome of a DECODE that the digest alone decides (R246, R247). -/
theorem decodeWith_outcome_of_digest {c : Prop} [Decidable c]
    (h : decodeChecks p s = if c then .ok n else .error .invalidHash) :
    (decodeWith p s).status = (if c then 0x00 else 0x06) ∧ (decodeWith p s).errByte = 0x00 := by
  split_ifs at h ⊢
  · rw [decodeWith_of_ok h]
    exact ⟨rfl, rfl⟩
  · exact decodeWith_outcome_of_error h

/-- A DECODE that ended well has loaded the Packet that its checks passed (R247). -/
theorem exists_loadPacket_of_status (h : (decodeWith p s).status = 0x00) :
    ∃ n, decodeChecks p s = .ok n ∧ decodeWith p s = (s.loadPacket p n).finish 0x00 := by
  obtain ⟨e, -, hd⟩ | hok := decodeWith_cases p s
  · rw [hd] at h
    exact absurd h e.code_ne_zero
  · exact hok

end

/-! ### The Packet that a DECODE loads (R247) -/

section
variable {p : Params} {s : State} {n : Nat}

/-- The header loaded from W serializes to the 36 bytes it was loaded from (R91, R94). -/
theorem State.hdr_loadPacket (hver : s.readW p 0 = p.supportedVersion) (hdecl : n = s.declaredLen p) :
    hdr ((s.loadPacket p n).header p) = s.readWs p 0 36 := by
  have hcut : s.readWs p 0 36 = s.readWs p 0 1 ++ s.readWs p 1 16 ++ s.readWs p 17 1 ++ s.readWs p 18 1 ++
      s.readWs p 19 1 ++ s.readWs p 20 4 ++ s.readWs p 24 4 ++ s.readWs p 28 8 := rfl
  have hbyte (a : Nat) : s.readWs p a 1 = [s.readW p a] := rfl
  have hlen : n = unbe (s.readWs p 24 4) := hdecl
  have hfields : (s.loadPacket p n).header p = (p.supportedVersion, s.wireVector p 1 16, s.readW p 17, s.readW p 18,
      s.readW p 19, BitVec.ofNat 32 (unbe (s.readWs p 20 4)), BitVec.ofNat 32 n,
      BitVec.ofNat 64 (unbe (s.readWs p 28 8))) := rfl
  rw [hfields, hcut, hbyte, hbyte, hbyte, hbyte, hver, hdr, State.toList_wireVector, hlen,
    be4_ofNat_unbe (State.length_readWs ..), be4_ofNat_unbe (State.length_readWs ..),
    be8_ofNat_unbe (State.length_readWs ..)]

theorem State.readWs_loadPacket (a k : Nat) : (s.loadPacket p n).readWs p a k = s.readWs p a k := by
  rw [State.loadPacket, State.writePs_readWs, State.loadFields_readWs]

theorem State.wireLen_loadPacket : (s.loadPacket p n).wireLen = s.wireLen := by
  rw [State.loadPacket, State.writePs_wireLen, State.loadFields_wireLen]

/-- The hash loaded is the one that check 6 compares with (R246, R247). -/
theorem State.hash_loadPacket : (s.loadPacket p n).hash = s.carriedHash p n := by
  rw [State.loadPacket, State.writePs_hash, State.loadFields_hash, State.carriedHash]

variable (hok : decodeChecks p s = .ok n)
include hok

/-- The payload loaded is the bytes of W after the header (R247). -/
theorem State.packetPayload_loadPacket : (s.loadPacket p n).packetPayload p = s.readWs p 36 n := by
  rw [State.packetPayload, State.payloadLen_loadPacket p s hok, State.loadPacket, headerLen_eq]
  have hwritten := State.readPs_writePs_self p (s.loadFields p n) 0 (s.readWs p 36 n)
  rwa [State.length_readWs] at hwritten

/-- The hash input of the Packet loaded is the bytes of W before the hash field (R94). -/
theorem State.ser_loadPacket :
    ser ((s.loadPacket p n).header p) ((s.loadPacket p n).packetPayload p) = s.readWs p 0 (36 + n) := by
  obtain ⟨-, -, hver, -, hdecl, -, -⟩ := (decodeChecks_ok_iff p s n).mp hok
  rw [ser, State.hdr_loadPacket hver hdecl, State.packetPayload_loadPacket hok, State.readWs_append]

/-- The Packet loaded has the hash it carries: check 6 has compared the two (R246, R247). -/
theorem State.packetHash_loadPacket : (s.loadPacket p n).packetHash p = (s.loadPacket p n).hash := by
  obtain ⟨-, -, -, -, -, -, hhash⟩ := (decodeChecks_ok_iff p s n).mp hok
  rw [State.packetHash, State.ser_loadPacket hok, State.hash_loadPacket, ← hhash, State.wireHash, headerLen_eq]

/-- The Packet loaded encodes to the bytes of W it was loaded from (R94, R256). -/
theorem State.encoding_loadPacket : (s.loadPacket p n).encoding p = s.readWs p 0 (68 + n) := by
  have hcarried : (s.loadPacket p n).hash.toList = s.readWs p (36 + n) 32 := by
    rw [State.hash_loadPacket, State.carriedHash, State.toList_wireVector, headerLen_eq]
  have hsplit : 68 + n = 36 + n + 32 := by omega
  rw [State.encoding, State.ser_loadPacket hok, State.packetHash_loadPacket hok, hcarried, hsplit,
    State.readWs_append p s 0 (36 + n) 32, Nat.zero_add]

end

/-! The outcome registers are no part of the Packet (R32). -/

@[simp] theorem State.finish_packetHash (p : Params) (r : Byte) (s : State) :
    (s.finish r).packetHash p = s.packetHash p := rfl

@[simp] theorem State.finish_encoding (p : Params) (r : Byte) (s : State) :
    (s.finish r).encoding p = s.encoding p := rfl

/-- After a DECODE that ends well the Packet has the hash it stores (R257). -/
theorem decodeWith_packetHash {p : Params} {s : State} (h : (decodeWith p s).status = 0x00) :
    (decodeWith p s).packetHash p = (decodeWith p s).hash := by
  obtain ⟨n, hok, hd⟩ := exists_loadPacket_of_status h
  rw [hd, State.finish_packetHash, State.finish_hash, State.packetHash_loadPacket hok]

/-- After a DECODE that ends well the Packet encodes to the bytes of W below WIRE_LEN (R256). -/
theorem decodeWith_encoding {p : Params} {s : State} (h : (decodeWith p s).status = 0x00) :
    (decodeWith p s).encoding p = (decodeWith p s).readWs p 0 (68 + (decodeWith p s).payloadLen.toNat) ∧
      68 + (decodeWith p s).payloadLen.toNat = (decodeWith p s).wireLen.toNat := by
  obtain ⟨n, hok, hd⟩ := exists_loadPacket_of_status h
  obtain ⟨-, -, -, -, -, hlen, -⟩ := (decodeChecks_ok_iff p s n).mp hok
  rw [hd, State.finish_encoding, State.finish_payloadLen, State.finish_readWs, State.finish_wireLen,
    State.payloadLen_loadPacket p s hok, State.encoding_loadPacket hok, State.readWs_loadPacket, State.wireLen_loadPacket]
  exact ⟨rfl, hlen⟩

/-- VERIFY answers 1 of a Packet that has the hash it stores (R250). -/
theorem exec_verify_of_packetHash {s : State} (h : s.packetHash Config.marsh = s.hash) :
    ∃ t, exec .verify s = .next t ∧ t.result = 0x01 :=
  ⟨_, exec_verify s, by rw [verifyWith_eq, if_pos h, State.finish_result]⟩

/-! ### What CONSTRUCT and ENCODE leave (R220, R230) -/

/-- The header of the Packet that CONSTRUCT makes (R220). -/
theorem header_constructWith {p : Params} {s : State} {imm8 : Byte} (hint : p.intentDefined imm8 = true)
    (hle : s.argLen.toNat ≤ 10485760) :
    (constructWith p imm8 s).header p =
      (p.supportedVersion, s.sessionId, imm8, 0x80, p.defaultFlags, 0, s.argLen, p.now s.nowDraws) := by
  obtain ⟨hundef, -⟩ | ⟨-, hlt, -⟩ | ⟨-, -, h⟩ := constructWith_cases p s imm8
  · rw [hint] at hundef
    exact absurd hundef (by decide)
  · exact absurd hle (Nat.not_le.mpr hlt)
  · rw [h]
    rfl

section
variable (p : Params) (s : State)

/-- ENCODE writes W, WIRE_LEN, HASH and the outcome registers (R230). -/
theorem encodeWith_frame :
    encodeWith p s =
      { s with
        wire := (encodeWith p s).wire, wireLen := BitVec.ofNat 32 (68 + s.payloadLen.toNat), hash := s.packetHash p
        result := 0x00, errByte := 0x00, status := 0x00 } := by
  rw [← encodeWith_wireLen p, ← encodeWith_hash p]
  simp only [encodeWith, State.finish, State.writeBody, State.writeWs]

theorem encodeWith_encoding : (encodeWith p s).encoding p = s.encoding p := by
  rw [State.encoding, State.encoding, encodeWith_header, encodeWith_packetPayload, encodeWith_packetHash]

/-- ENCODE stores the hash of the Packet (R257). -/
theorem encodeWith_packetHash_eq_hash : (encodeWith p s).packetHash p = (encodeWith p s).hash := by
  rw [encodeWith_packetHash, encodeWith_hash]

/-- The encoding of a Packet with no payload: its header and the digest of that (R230). -/
theorem encodeWith_readWs_of_payloadLen_zero {s : State} (h : s.payloadLen = 0) :
    (encodeWith p s).readWs p 0 36 = hdr (s.header p) ∧
      (encodeWith p s).readWs p 36 32 = (p.digest (hdr (s.header p))).toList := by
  obtain ⟨-, -, -, -, -, -, -, -, -, hhash, hbody⟩ := encodeWith_fields p s
  have hlen : s.payloadLen.toNat = 0 := congrArg BitVec.toNat h
  have hser : ser (s.header p) (s.packetPayload p) = hdr (s.header p) := by
    rw [ser, List.eq_nil_of_length_eq_zero ((s.length_packetPayload p).trans hlen), List.append_nil]
  rw [State.packetHash, hser, hlen] at hhash
  rw [hser, hlen] at hbody
  exact ⟨hbody, hhash⟩

end

/-! ### ENCODE and DECODE one after the other (R251, R256) -/

section
variable {p : Params} {s t : State}

/-- Writing to W the bytes that stand there changes no byte of it (R73). -/
theorem encodeWith_readW_of_encoding_eq {k : Nat} (h : s.encoding p = s.readWs p 0 k) (a : Nat) :
    (encodeWith p s).readW p a = s.readW p a := by
  rw [encodeWith_readW_getD, h, State.readWs_zero_eq_map, List.getElem?_map]
  by_cases ha : a < k
  · rw [List.getElem?_range ha]
    rfl
  · rw [List.getElem?_eq_none (by simpa using ha)]
    rfl

/-- Packets of one encoding that store the hash they have are the same (R32, R94). -/
theorem SamePacket.of_encoding_eq (h : s.encoding p = t.encoding p) (hs : s.packetHash p = s.hash)
    (ht : t.packetHash p = t.hash) : SamePacket p s t := by
  simp only [State.encoding, ser, List.append_assoc] at h
  obtain ⟨hhdr, hrest⟩ := List.append_inj h (by simp)
  have hheader : s.header p = t.header p := hdr_injective hhdr
  simp only [State.header, Prod.mk.injEq, true_and] at hheader
  obtain ⟨hsid, hintent, hprio, hflags, hseq, hlen, hts⟩ := hheader
  obtain ⟨hpayload, hhash⟩ := List.append_inj hrest (by simp only [State.length_packetPayload, hlen])
  exact ⟨hsid, hintent, hprio, hflags, hseq, hlen, hts, by rw [← hs, ← ht, Vector.toList_inj.mp hhash], hpayload⟩

/-- Equal Packets hold the same payload bytes in P (R31, R32). -/
theorem SamePacket.readP_eq (h : SamePacket p s t) {a : Nat} (ha : a < t.payloadLen.toNat) :
    s.readP p a = t.readP p a := by
  have hbytes := h.payload
  rw [State.packetPayload_eq_map, State.packetPayload_eq_map, h.payload_len, List.map_inj_left] at hbytes
  exact hbytes a (List.mem_range.mpr ha)

/-- A DECODE with the W and WIRE_LEN that ENCODE leaves ends well and gives the Packet back (R251). -/
theorem decodeWith_of_encodeWith (hint : p.intentDefined s.intent = true) (hle : s.payloadLen.toNat ≤ 10485760)
    (hwire : t.wire = (encodeWith p s).wire) (hlen : t.wireLen = (encodeWith p s).wireLen)
    (hresets : t.resets = (encodeWith p s).resets) :
    (decodeWith p t).status = 0x00 ∧ SamePacket p (decodeWith p t) (encodeWith p s) := by
  have hok : decodeChecks p t = .ok s.payloadLen.toNat :=
    (decodeChecks_congr hwire hlen hresets).trans (decodeChecks_encodeWith p s hint hle)
  have hreads : t.readWs p = (encodeWith p s).readWs p := by
    funext a n
    rw [State.readWs, State.readWs, State.wireFill, State.wireFill, hwire, hresets]
  have hstatus : (decodeWith p t).status = 0x00 := by rw [decodeWith_of_ok hok, State.finish_status]
  have hbytes : (decodeWith p t).encoding p = (encodeWith p s).encoding p := by
    rw [decodeWith_of_ok hok, State.finish_encoding, State.encoding_loadPacket hok, hreads, encodeWith_readWs,
      encodeWith_encoding]
  exact ⟨hstatus, SamePacket.of_encoding_eq hbytes (decodeWith_packetHash hstatus) (encodeWith_packetHash_eq_hash p s)⟩

end

end Sys2Proof.Machine
end

section
/-! SUPPORT. What DECODE says of an encoding with one byte altered (R252): which of the six checks fails, by the address of
the byte, and what H_SENS (R206) adds where the digest decides. -/

namespace Sys2Proof.Machine

/-! ### Each row of R252 -/

/-- What ENCODE leaves, with the byte `x` at address `k` of W. -/
def State.alteredEncoding (p : Params) (s : State) (k : Nat) (x : Byte) : State := (encodeWith p s).writeWs p k [x]

section
variable {p : Params} {s : State} {k n : Nat} {x : Byte}

theorem State.readW_alteredEncoding (a : Nat) :
    (s.alteredEncoding p k x).readW p a = if a = k then x else (encodeWith p s).readW p a :=
  State.readW_writeWs_singleton ..

theorem State.readW_alteredEncoding_of_ne {a : Nat} (h : a ≠ k) :
    (s.alteredEncoding p k x).readW p a = (encodeWith p s).readW p a := by
  rw [State.readW_alteredEncoding, if_neg h]

theorem State.readW_alteredEncoding_self : (s.alteredEncoding p k x).readW p k = x := by
  rw [State.readW_alteredEncoding, if_pos rfl]

theorem State.readW_zero_alteredEncoding (hk : k ≠ 0) : (s.alteredEncoding p k x).readW p 0 = p.supportedVersion := by
  obtain ⟨hver, -⟩ := encodeWith_fields p s
  rw [State.readW_alteredEncoding_of_ne hk.symm, hver]

/-- The declared length is another as soon as one of its bytes is (R245). -/
theorem State.declaredLen_alteredEncoding_ne (hlo : 24 ≤ k) (hhi : k < 28) (hx : x ≠ (encodeWith p s).readW p k) :
    (s.alteredEncoding p k x).declaredLen p ≠ s.payloadLen.toNat := by
  rw [← encodeWith_declaredLen p s]
  intro heq
  have hbytes : (s.alteredEncoding p k x).readWs p 24 4 = (encodeWith p s).readWs p 24 4 := by
    have hcong := congrArg (fun n => be4 (BitVec.ofNat 32 n)) heq
    simpa only [State.declaredLen, be4_ofNat_unbe (State.length_readWs ..)] using hcong
  rw [State.readWs_eq_map, State.readWs_eq_map, List.map_inj_left] at hbytes
  have hbyte := hbytes (k - 24) (List.mem_range.mpr (by omega))
  rw [Nat.add_sub_cancel' hlo, State.readW_alteredEncoding_self] at hbyte
  exact hx hbyte

variable (hinv : s.Inv p)
include hinv

/-- Altering a byte leaves the length of the input (R39). -/
theorem State.wireLen_alteredEncoding : (s.alteredEncoding p k x).wireLen.toNat = 68 + s.payloadLen.toNat :=
  encodeWith_inputLen p s hinv.payload_len_le

/-- Altering a byte keeps the input within its legal length. -/
theorem State.wireLen_alteredEncoding_le : (s.alteredEncoding p k x).wireLen.toNat ≤ 10485828 := by
  have hle := hinv.payload_len_le
  rw [maxPayload_eq] at hle
  rw [State.wireLen_alteredEncoding hinv]
  omega

theorem decodeChecks_altered_version (hx : x ≠ (encodeWith p s).readW p 0) :
    decodeChecks p (s.alteredEncoding p 0 x) = .error (.unsupportedVersion x) := by
  obtain ⟨hver, -⟩ := encodeWith_fields p s
  have hbyte : (s.alteredEncoding p 0 x).readW p 0 = x := State.readW_alteredEncoding_self
  rw [decodeChecks_unsupportedVersion (by rw [State.wireLen_alteredEncoding hinv]; omega)
    (State.wireLen_alteredEncoding_le hinv) (by rw [hbyte, ← hver]; exact hx), hbyte]

theorem State.intentDefined_alteredEncoding (hk : k = 17 → p.intentDefined x = true) :
    p.intentDefined ((s.alteredEncoding p k x).readW p 17) = true := by
  obtain ⟨-, -, hint, -⟩ := encodeWith_fields p s
  rw [State.readW_alteredEncoding]
  split
  · next h => exact hk h.symm
  · rw [hint]
    exact hinv.intent_defined

theorem decodeChecks_altered_intent (hx : p.intentDefined x = false) :
    decodeChecks p (s.alteredEncoding p 17 x) = .error (.invalidIntent x) := by
  have hbyte : (s.alteredEncoding p 17 x).readW p 17 = x := State.readW_alteredEncoding_self
  rw [decodeChecks_invalidIntent (by rw [State.wireLen_alteredEncoding hinv]; omega)
    (State.wireLen_alteredEncoding_le hinv) (State.readW_zero_alteredEncoding (by decide)) (by rw [hbyte, hx]), hbyte]

theorem decodeChecks_altered_length (hlo : 24 ≤ k) (hhi : k < 28) (hx : x ≠ (encodeWith p s).readW p k) :
    decodeChecks p (s.alteredEncoding p k x) = .error .lengthMismatch := by
  have hne := State.declaredLen_alteredEncoding_ne hlo hhi hx
  have hlen := State.wireLen_alteredEncoding (k := k) (x := x) hinv
  exact decodeChecks_lengthMismatch (by omega) (State.wireLen_alteredEncoding_le hinv)
    (State.readW_zero_alteredEncoding (by omega)) (State.intentDefined_alteredEncoding hinv (by omega)) (by omega)

theorem decodeChecks_altered_hash (hlo : 36 + s.payloadLen.toNat ≤ k) (hhi : k < 68 + s.payloadLen.toNat)
    (hx : x ≠ (encodeWith p s).readW p k) : decodeChecks p (s.alteredEncoding p k x) = .error .invalidHash := by
  refine decodeChecks_withWire_invalidHash (decodeChecks_encodeWith p s hinv.intent_defined hinv.payload_len_le)
    (fun a ha => State.readW_alteredEncoding_of_ne (by omega)) ⟨k, hlo, hhi, ?_⟩
  have hbyte : (s.alteredEncoding p k x).readW p k = x := State.readW_alteredEncoding_self
  rwa [← hbyte] at hx

/-- Altered anywhere else, the encoding passes the first five checks, and the digest of its body decides (R252). -/
theorem decodeChecks_altered_body (hk : k < 36 + s.payloadLen.toNat) (hver : k ≠ 0)
    (hint : k = 17 → p.intentDefined x = true) (hlen : ¬(24 ≤ k ∧ k < 28)) :
    decodeChecks p (s.alteredEncoding p k x) =
      if (s.alteredEncoding p k x).wireHash p s.payloadLen.toNat = s.packetHash p then .ok s.payloadLen.toNat
      else .error .invalidHash := by
  have hdecl : (s.alteredEncoding p k x).declaredLen p = s.payloadLen.toNat := by
    rw [← encodeWith_declaredLen p s]
    exact State.declaredLen_withWire fun i hi => State.readW_alteredEncoding_of_ne (by omega)
  have hcarried : (s.alteredEncoding p k x).carriedHash p s.payloadLen.toNat = s.packetHash p := by
    obtain ⟨-, -, -, -, -, -, -, -, -, hhash, -⟩ := encodeWith_fields p s
    rw [← Vector.toList_inj, ← hhash, ← State.toList_wireVector]
    refine congrArg _ (State.wireVector_withWire fun i hi => State.readW_alteredEncoding_of_ne ?_)
    rw [headerLen_eq]
    omega
  rw [← hcarried]
  exact decodeChecks_of_length_eq (State.wireLen_alteredEncoding hinv) (State.wireLen_alteredEncoding_le hinv)
    (State.readW_zero_alteredEncoding hver) (State.intentDefined_alteredEncoding hinv hint) hdecl

end

/-! ### Sensitivity of the digest (R206) -/

/-- Under H_SENS one byte set to another value changes the digest. -/
theorem HSens.digest_set_ne {d : Bytes → Hash} (h : HSens d) {b : Bytes} {k : Nat} {x : Byte} (hk : k < b.length)
    (hx : x ≠ b[k]) : d (b.set k x) ≠ d b := by
  have hsplit := h (b.take k) (b.drop (k + 1)) x b[k] hx
  rw [List.set_eq_take_append_cons_drop, if_pos hk]
  rwa [List.getElem_cons_drop, List.take_append_drop] at hsplit

theorem State.readWs_writeWs_singleton (p : Params) (s : State) (k n : Nat) (x : Byte) :
    (s.writeWs p k [x]).readWs p 0 n = (s.readWs p 0 n).set k x := by
  rw [State.readWs_zero_eq_map, State.readWs_zero_eq_map]
  refine List.ext_getElem (by simp) fun i _ _ => ?_
  simp [List.getElem_set, State.readW_writeWs_singleton, eq_comm]

/-- Under H_SENS an altered body has not the digest of the Packet (R252). -/
theorem State.wireHash_alteredEncoding_ne {p : Params} {s : State} {k : Nat} {x : Byte} (hsens : HSens p.digest)
    (hk : k < 36 + s.payloadLen.toNat) (hx : x ≠ (encodeWith p s).readW p k) :
    (s.alteredEncoding p k x).wireHash p s.payloadLen.toNat ≠ s.packetHash p := by
  obtain ⟨-, -, -, -, -, -, -, -, -, -, hbody⟩ := encodeWith_fields p s
  have haltered : (s.alteredEncoding p k x).readWs p 0 (36 + s.payloadLen.toNat) = _ :=
    State.readWs_writeWs_singleton p (encodeWith p s) k _ x
  rw [State.wireHash, State.packetHash, headerLen_eq, haltered, ← hbody]
  refine hsens.digest_set_ne (by rwa [State.length_readWs]) ?_
  simpa only [State.readWs_zero_eq_map, List.getElem_map, List.getElem_range] using hx

end Sys2Proof.Machine
end

section
/-! SUPPORT. The statements about the packet codec (`43_packet_codec.md`), settled. -/

namespace Sys2Proof.Machine

/-- Settles O21: the three outcomes of CONSTRUCT, and its word is opcode 0x30 with the intent code. -/
theorem constructMakesThePacketOrChangesNothing : Obligations.ConstructMakesThePacketOrChangesNothing := by
  unfold Obligations.ConstructMakesThePacketOrChangesNothing
  intro s imm8
  refine ⟨?_, step_issue s 0x30 imm8 rfl⟩
  rw [exec_construct]
  obtain ⟨hint, h⟩ | ⟨hint, hlen, h⟩ | ⟨hint, hlen, h⟩ := constructWith_cases Config.marsh s imm8
  · rw [h, if_neg (by simp [hint])]
    rfl
  · rw [h, if_pos hint, if_pos hlen]
    rfl
  · rw [h, if_pos hint, if_neg (Nat.not_lt.mpr hlen)]
    rfl

/-- Settles O22: W holds the encoding of the Packet, field by field, and HASH the digest of what comes before it. -/
theorem encodeWritesHeaderPayloadAndDigest : Obligations.EncodeWritesHeaderPayloadAndDigest := by
  unfold Obligations.EncodeWritesHeaderPayloadAndDigest
  intro s m b
  have hm : ser (s.header Config.marsh) (s.packetPayload Config.marsh) = m := s.ser_fields Config.marsh
  have hhash : s.packetHash Config.marsh = Config.digest m := congrArg Config.digest hm
  have hb : s.encoding Config.marsh = b := by rw [State.encoding, hm, hhash]
  refine ⟨⟨_, exec_encode s, ?_, ?_, fun a => ?_⟩, step_issue s 0x31 0x00 rfl⟩
  · rw [← hhash]
    exact encodeWith_frame _ s
  · rw [← hb, State.length_encoding]
  · rw [← hb, encodeWith_readW_getD]

/-- Settles O23: an encoding has 68 + PAYLOAD_LEN bytes, and the invariant bounds PAYLOAD_LEN. -/
theorem encodeNeverFailsAndSizesExactly : Obligations.EncodeNeverFailsAndSizesExactly := by
  unfold Obligations.EncodeNeverFailsAndSizesExactly
  intro s hinv
  have hle := hinv.payload_len_le
  have hlen : (encodeWith Config.marsh s).wireLen.toNat = 68 + s.payloadLen.toNat := encodeWith_inputLen _ s hle
  rw [maxPayload_eq] at hle
  refine ⟨_, exec_encode s, encodeWith_status _ s, ?_, ?_, ?_⟩
  · rw [hlen, encodeWith_payloadLen]
  · omega
  · omega

/-- Settles O24: the first two checks look at WIRE_LEN alone. -/
theorem decodeChecksTheLengthFirst : Obligations.DecodeChecksTheLengthFirst := by
  unfold Obligations.DecodeChecksTheLengthFirst
  exact fun s => ⟨fun h => exec_decode_of_error (decodeChecks_tooSmall h),
    fun h => exec_decode_of_error (decodeChecks_tooLarge h)⟩

/-- Settles O25: check 3 fails with the byte found. -/
theorem decodeRejectsAnotherVersion : Obligations.DecodeRejectsAnotherVersion := by
  unfold Obligations.DecodeRejectsAnotherVersion
  exact fun s hmin hmax hver => exec_decode_of_error (decodeChecks_unsupportedVersion hmin hmax hver)

/-- Settles O26: check 4 fails with the byte found, and no other check reports InvalidIntent. -/
theorem decodeRejectsAnUndefinedIntent : Obligations.DecodeRejectsAnUndefinedIntent := by
  unfold Obligations.DecodeRejectsAnUndefinedIntent
  intro s hmin hmax hver
  have hraise (hint : Config.marsh.intentDefined (s.readW Config.marsh 17) = false) :
      decodeWith Config.marsh s = s.raise (.invalidIntent (s.readW Config.marsh 17)) :=
    decodeWith_of_error (decodeChecks_invalidIntent hmin hmax hver hint)
  refine ⟨_, exec_decode s, ⟨intentDefined_eq_false_of_status, fun hint => ?_⟩, hraise⟩
  rw [hraise hint]
  rfl

/-- Settles O27: the declared length is the weighted sum of its four bytes, and check 5 fails. -/
theorem decodeRejectsALengthMismatch : Obligations.DecodeRejectsALengthMismatch := by
  unfold Obligations.DecodeRejectsALengthMismatch
  intro s hmin hmax hver hint hlen
  rw [← State.declaredLen_eq_weights] at hlen
  exact exec_decode_of_error (decodeChecks_lengthMismatch hmin hmax hver hint hlen)

/-- Settles O28: past the first five checks the digest decides, and it differs. -/
theorem decodeRejectsAWrongHash : Obligations.DecodeRejectsAWrongHash := by
  unfold Obligations.DecodeRejectsAWrongHash
  intro s n hlen hmax hver hint hdecl hhash
  rw [← State.declaredLen_eq_map] at hdecl
  refine exec_decode_of_error ((decodeChecks_of_length_eq hlen hmax hver hint hdecl).trans (if_neg ?_))
  rw [State.wireHash_eq_carriedHash_iff_map]
  exact hhash

/-- Settles O29: the checks pass, and the Packet loaded has the hash it carries. -/
theorem decodeLoadsThePacketRaw : Obligations.DecodeLoadsThePacketRaw := by
  unfold Obligations.DecodeLoadsThePacketRaw
  intro s n hlen hmax hver hint hdecl hhash
  rw [← State.declaredLen_eq_map] at hdecl
  have hok : decodeChecks Config.marsh s = .ok n := by
    rw [decodeChecks_of_length_eq hlen hmax hver hint hdecl, if_pos]
    rw [State.wireHash_eq_carriedHash_iff_map]
    exact hhash
  refine ⟨_, congrArg Host.Outcome.next (decodeWith_of_ok hok), ?_, fun a => ?_, ?_⟩
  · rw [← State.readWs_eq_map, ← State.readWs_eq_map, State.finish, State.loadPacket, State.writePs, State.loadFields]
    rfl
  · rw [State.finish_readP, State.readP_loadPacket]
  · refine exec_verify_of_packetHash ?_
    rw [State.finish_packetHash, State.finish_hash, State.packetHash_loadPacket hok]

/-- Settles O30: the checks are one chain, and each error has its STATUS. -/
theorem decodeReportsTheEarliestFailure : Obligations.DecodeReportsTheEarliestFailure := by
  unfold Obligations.DecodeReportsTheEarliestFailure
  intro s n
  have hn : s.declaredLen Config.marsh = n := s.declaredLen_eq_map Config.marsh
  refine ⟨_, exec_decode s, ?_⟩
  rw [decodeWith_status, decodeChecks_eq, hn]
  simp only [apply_ite statusOfChecks, ne_eq, State.wireHash_eq_carriedHash_iff_map]
  rfl

/-- Settles O33: the hash of the Packet is the digest of its fields and payload, and the word is opcode 0x33. -/
theorem verifyComparesTheDigestWithTheStoredHash : Obligations.VerifyComparesTheDigestWithTheStoredHash := by
  unfold Obligations.VerifyComparesTheDigestWithTheStoredHash
  intro s m
  have hhash : s.packetHash Config.marsh = Config.digest m := congrArg Config.digest (s.ser_fields Config.marsh)
  refine ⟨?_, step_issue s 0x33 0x00 rfl⟩
  rw [exec_verify, verifyWith_eq, hhash]
  rfl

/-- Settles O34: what ENCODE leaves in W passes the checks, and the Packet loaded has the same encoding. -/
theorem decodeAfterEncodeGivesThePacketBack : Obligations.DecodeAfterEncodeGivesThePacketBack := by
  unfold Obligations.DecodeAfterEncodeGivesThePacketBack
  intro s hinv
  refine ⟨_, exec_encode s, fun t hwire hlen hresets => ⟨_, exec_decode t, ?_⟩⟩
  obtain ⟨hstatus, hsame⟩ := decodeWith_of_encodeWith hinv.intent_defined hinv.payload_len_le hwire hlen hresets
  exact ⟨hstatus, hsame, fun a ha => hsame.readP_eq ha⟩

/-- Settles O35: the Packet loaded encodes to the bytes that W holds. -/
theorem encodeAfterDecodeChangesNoByteOfTheWire : Obligations.EncodeAfterDecodeChangesNoByteOfTheWire := by
  unfold Obligations.EncodeAfterDecodeChangesNoByteOfTheWire
  intro s t hdec hstatus
  obtain rfl : decodeWith Config.marsh s = t := Host.Outcome.next.inj hdec
  obtain ⟨hencoding, hlen⟩ := decodeWith_encoding hstatus
  refine ⟨_, exec_encode _, encodeWith_readW_of_encoding_eq hencoding, ?_, ?_⟩
  · rw [encodeWith_wireLen, hlen, BitVec.ofNat_toNat, BitVec.setWidth_eq]
  · rw [encodeWith_hash, decodeWith_packetHash hstatus]

/-- Settles O36: both commands leave a Packet that has the hash it stores. -/
theorem verifyHoldsAfterEncodeAndAfterDecode : Obligations.VerifyHoldsAfterEncodeAndAfterDecode := by
  unfold Obligations.VerifyHoldsAfterEncodeAndAfterDecode
  constructor
  · intro s
    obtain ⟨u, hu, hresult⟩ := exec_verify_of_packetHash (encodeWith_packetHash_eq_hash Config.marsh s)
    exact ⟨_, u, exec_encode s, hu, hresult⟩
  · intro s t hdec hstatus
    obtain rfl : decodeWith Config.marsh s = t := Host.Outcome.next.inj hdec
    exact exec_verify_of_packetHash (decodeWith_packetHash hstatus)

/-- Settles O38: each altered byte fails the check that looks at it, and the digest of the body decides for the others. -/
theorem oneAlteredByteIsRejectedUnlessTheDigestCollides :
    Obligations.OneAlteredByteIsRejectedUnlessTheDigestCollides := by
  unfold Obligations.OneAlteredByteIsRejectedUnlessTheDigestCollides
  intro s t k x hinv henc hk hx v digestStatus
  obtain rfl : encodeWith Config.marsh s = t := Host.Outcome.next.inj henc
  have hdigest : digestStatus =
      if v.wireHash Config.marsh s.payloadLen.toNat = s.packetHash Config.marsh then 0x00 else 0x06 := by
    rw [State.wireHash, State.readWs_zero_eq_map, ← encodeWith_hash]
    rfl
  have hbody (hlt : k < 36 + s.payloadLen.toNat) (h0 : k ≠ 0) (h17 : k = 17 → Config.marsh.intentDefined x = true)
      (hlen : ¬(24 ≤ k ∧ k < 28)) :
      (decodeWith Config.marsh v).status = digestStatus ∧ (decodeWith Config.marsh v).errByte = 0x00 := by
    rw [hdigest]
    exact decodeWith_outcome_of_digest (decodeChecks_altered_body hinv hlt h0 h17 hlen)
  refine ⟨_, exec_decode v, ?_, ?_, fun hlo hhi => ?_, fun hlo => ?_, fun hlt h0 h17 hlen => ?_⟩
  · rintro rfl
    exact decodeWith_outcome_of_error (decodeChecks_altered_version hinv hx)
  · rintro rfl
    by_cases hint : Config.marsh.intentDefined x = true
    · rw [if_pos hint, if_pos hint]
      exact hbody (by omega) (by decide) (fun _ => hint) (by decide)
    · rw [if_neg hint, if_neg hint]
      exact decodeWith_outcome_of_error (decodeChecks_altered_intent hinv (by simpa using hint))
  · exact (decodeWith_outcome_of_error (decodeChecks_altered_length hinv hlo hhi hx)).1
  · exact (decodeWith_outcome_of_error (decodeChecks_altered_hash hinv hlo hk hx)).1
  · exact (hbody hlt h0 (fun h => absurd h h17) hlen).1

/-- Settles O39: the rows of O38 over any parameters; under H_SENS the digest of an altered body differs. -/
theorem oneAlteredByteIsRejectedUnderSensitivity : Obligations.OneAlteredByteIsRejectedUnderSensitivity := by
  unfold Obligations.OneAlteredByteIsRejectedUnderSensitivity
  refine ⟨fun s => ⟨exec_encode s, exec_decode s⟩, ?_⟩
  intro p s k x hinv hk hx u
  refine ⟨?_, ?_, fun hlo hhi => ?_, fun hlo => ?_, fun hlt h0 h17 hlen => ?_⟩
  · rintro rfl
    exact decodeWith_outcome_of_error (decodeChecks_altered_version hinv hx)
  · rintro rfl hint
    exact decodeWith_outcome_of_error (decodeChecks_altered_intent hinv hint)
  · exact decodeWith_outcome_of_error (decodeChecks_altered_length hinv hlo hhi hx)
  · exact decodeWith_outcome_of_error (decodeChecks_altered_hash hinv hlo hk hx)
  · obtain ⟨hstatus, herr⟩ := decodeWith_outcome_of_digest (decodeChecks_altered_body hinv hlt h0 h17 hlen)
    refine ⟨herr, ?_, fun hsens => hstatus.trans (if_neg (State.wireHash_alteredEncoding_ne hsens hlt hx))⟩
    exact (ite_eq_or_eq ..).symm.imp hstatus.trans hstatus.trans

/-- Settles O41: CONSTRUCT makes the empty Ping packet, W then holds its fields and digest, and the round trip gives it
back. -/
theorem concreteScenarioOfTheSource : Obligations.ConcreteScenarioOfTheSource := by
  unfold Obligations.ConcreteScenarioOfTheSource
  intro s hsid harg
  have hheader : (constructWith Config.marsh 0x01 s).header Config.marsh =
      (Config.supportedVersion, Vector.replicate 16 0x00, 0x01, 0x80, Config.defaultFlags, 0, 0, Config.now s.nowDraws) := by
    rw [header_constructWith (intentDefined_ping _) (by simp [harg]), hsid, harg]
    rfl
  have hconstruct := exec_construct 0x01 s
  generalize constructWith Config.marsh 0x01 s = t at hheader hconstruct
  obtain ⟨hintent, hlen⟩ : t.intent = 0x01 ∧ t.payloadLen = 0 := by
    simp only [State.header, Prod.mk.injEq] at hheader
    obtain ⟨-, -, hintent, -, -, -, hlen, -⟩ := hheader
    exact ⟨hintent, hlen⟩
  obtain ⟨hbody, hhash⟩ := encodeWith_readWs_of_payloadLen_zero Config.marsh hlen
  obtain ⟨hstatus, hsame⟩ := decodeWith_of_encodeWith (p := Config.marsh) (s := t) (by rw [hintent, intentDefined_ping])
    (by simp [hlen]) rfl rfl rfl
  obtain ⟨w, hw, hresult⟩ := exec_verify_of_packetHash (decodeWith_packetHash hstatus)
  refine ⟨t, _, _, w, hconstruct, exec_encode t, exec_decode _, hw, ?_, ?_, ?_, hstatus, ?_, ?_, hresult⟩
  · rw [encodeWith_wireLen, hlen]
    rfl
  · rw [← State.readWs_zero_eq_map, hbody, hheader]
    rfl
  · rw [← State.readWs_zero_eq_map, ← State.readWs_eq_map, hbody, hhash, marsh_digest]
  · rw [hsame.intent, encodeWith_intent, hintent]
  · rw [hsame.payload_len, encodeWith_payloadLen, hlen]

end Sys2Proof.Machine
end

section
/-! SUPPORT. The errors (R270, R271): which of them each command can raise, and that a command ends well or raises one of
its own. -/

namespace Sys2Proof.Machine

/-- The errors a command can raise, its refusal among them: the setters and CONSTRUCT are refused outside their domain
(R122), CONSTRUCT looks at ARG_LEN (R222), and DECODE makes its six checks (R249, R271). -/
def MayRaise : Instr → ErrorOutcome → Prop
  | .setComp _, e => e = .refused
  | .setEnc _, e => e = .refused
  | .setFrag _, e => e = .refused
  | .setAck _, e => e = .refused
  | .construct _, e => e = .payloadTooLarge ∨ e = .refused
  | .decode, e => e ≠ .payloadTooLarge ∧ e ≠ .refused
  | _, _ => False

/-- `t` is what a command that raises nothing outside `errors` can leave of `s`: it ends well, or it raises one of them. -/
def EndsWellOrRaises (errors : ErrorOutcome → Prop) (s t : State) : Prop :=
  t.status = 0x00 ∨ ∃ e, errors e ∧ t = s.raise e

/-! ### One command at a time -/

section
variable (p : Params) (s : State)

theorem State.updateFlags_endsWellOrRaises (d : Bool) (f : Byte) :
    EndsWellOrRaises (· = .refused) s (s.updateFlags d f) := by
  obtain ⟨-, h⟩ | ⟨-, h⟩ := s.updateFlags_cases d f <;> rw [h]
  · exact .inl rfl
  · exact .inr ⟨.refused, rfl, rfl⟩

theorem constructWith_endsWellOrRaises (imm8 : Byte) :
    EndsWellOrRaises (MayRaise (.construct imm8)) s (constructWith p imm8 s) := by
  obtain ⟨-, h⟩ | ⟨-, -, h⟩ | ⟨-, -, h⟩ := constructWith_cases p s imm8 <;> rw [h]
  · exact .inr ⟨.refused, .inr rfl, rfl⟩
  · exact .inr ⟨.payloadTooLarge, .inl rfl, rfl⟩
  · exact .inl rfl

theorem decodeWith_endsWellOrRaises : EndsWellOrRaises (MayRaise .decode) s (decodeWith p s) := by
  obtain ⟨e, he, h⟩ | ⟨n, -, h⟩ := decodeWith_cases p s <;> rw [h]
  · refine .inr ⟨e, ?_, rfl⟩
    obtain rfl | rfl | ⟨rfl, -⟩ | ⟨rfl, -⟩ | rfl | rfl := decodeChecks_error p s he <;> simp [MayRaise]
  · exact .inl rfl

end

/-- What a command can do to the outcome registers: it ends well, or it raises one of its errors on the state before it
(R271, R276). -/
theorem exec_endsWellOrRaises (i : Instr) (s : State) :
    ∃ t, exec i s = .next t ∧ EndsWellOrRaises (MayRaise i) s t := by
  cases i with
  | chkIntent imm8 => exact ⟨_, exec_chkIntent imm8 s, .inl rfl⟩
  | chkComp imm8 => exact ⟨_, exec_chkComp imm8 s, .inl rfl⟩
  | chkEnc imm8 => exact ⟨_, exec_chkEnc imm8 s, .inl rfl⟩
  | getComp => exact ⟨_, exec_getComp s, .inl rfl⟩
  | setComp imm8 => exact ⟨_, exec_setComp imm8 s, s.updateFlags_endsWellOrRaises _ _⟩
  | getEnc => exact ⟨_, exec_getEnc s, .inl rfl⟩
  | setEnc imm8 => exact ⟨_, exec_setEnc imm8 s, s.updateFlags_endsWellOrRaises _ _⟩
  | getFrag => exact ⟨_, exec_getFrag s, .inl rfl⟩
  | setFrag imm8 => exact ⟨_, exec_setFrag imm8 s, s.updateFlags_endsWellOrRaises _ _⟩
  | getAck => exact ⟨_, exec_getAck s, .inl rfl⟩
  | setAck imm8 => exact ⟨_, exec_setAck imm8 s, s.updateFlags_endsWellOrRaises _ _⟩
  | construct imm8 => exact ⟨_, exec_construct imm8 s, constructWith_endsWellOrRaises _ s imm8⟩
  | encode => exact ⟨_, exec_encode s, .inl (encodeWith_status _ s)⟩
  | decode => exact ⟨_, exec_decode s, decodeWith_endsWellOrRaises _ s⟩
  | verify => exact ⟨_, exec_verify s, .inl rfl⟩

/-! ### The errors of each command (R271) -/

/-- The six errors of DECODE have the STATUS codes 0x01 to 0x06. -/
theorem code_le_six_of_mayRaise_decode {e : ErrorOutcome} (h : MayRaise .decode e) : e.code.toNat ≤ 6 := by
  obtain ⟨hlarge, hrefused⟩ := h
  cases e with
  | payloadTooLarge => exact absurd rfl hlarge
  | refused => exact absurd rfl hrefused
  | _ => simp [ErrorOutcome.code]

/-- A command other than CONSTRUCT and DECODE raises no error of the source; it can only be refused. -/
theorem eq_refused_of_mayRaise {i : Instr} {e : ErrorOutcome} (hd : i ≠ .decode) (hc : ¬∃ c, i = .construct c)
    (h : MayRaise i e) : e = .refused := by
  cases i with
  | setComp => exact h
  | setEnc => exact h
  | setFrag => exact h
  | setAck => exact h
  | construct c => exact absurd ⟨c, rfl⟩ hc
  | decode => exact absurd rfl hd
  | _ => exact h.elim

/-- A DECODE that ends well has loaded the length that WIRE_LEN leaves for the payload (R249). -/
theorem payloadLen_decodeWith_of_status {p : Params} {s : State} (h : (decodeWith p s).status = 0x00) :
    (decodeWith p s).payloadLen.toNat + 68 = s.wireLen.toNat ∧ (decodeWith p s).payloadLen.toNat ≤ 10485760 := by
  obtain ⟨n, hok, hd⟩ := exists_loadPacket_of_status h
  obtain ⟨-, hmax, -, -, -, hlen, -⟩ := (decodeChecks_ok_iff p s n).mp hok
  rw [hd, State.finish_payloadLen, State.payloadLen_loadPacket p s hok]
  rw [State.inputLen] at hlen hmax
  omega

end Sys2Proof.Machine
end

section
/-! SUPPORT. The statements about the errors (`60_exceptions.md`), settled. -/

namespace Sys2Proof.Machine

/-- Settles O46: a command that does not end well raises an error on the state before it. -/
theorem errorsLeaveTheRestOfTheStateAlone : Obligations.ErrorsLeaveTheRestOfTheStateAlone := by
  unfold Obligations.ErrorsLeaveTheRestOfTheStateAlone
  intro i s
  obtain ⟨t, hexec, hwell | ⟨e, -, rfl⟩⟩ := exec_endsWellOrRaises i s
  · exact ⟨t, hexec, fun hstatus => absurd hwell hstatus⟩
  · exact ⟨s.raise e, hexec, fun _ => rfl⟩

/-- Settles O49: each command's own errors, and the length that the checks of DECODE passed. -/
theorem onlyConstructAndDecodeRaiseErrors : Obligations.OnlyConstructAndDecodeRaiseErrors := by
  unfold Obligations.OnlyConstructAndDecodeRaiseErrors
  intro i s
  obtain ⟨t, hexec, hend⟩ := exec_endsWellOrRaises i s
  refine ⟨t, hexec, ?_, ?_, fun hd hc => ?_⟩
  · rintro ⟨c, rfl⟩
    obtain hwell | ⟨e, rfl | rfl, rfl⟩ := hend
    · exact .inl hwell
    · exact .inr (.inl rfl)
    · exact .inr (.inr rfl)
  · rintro rfl
    obtain rfl : decodeWith Config.marsh s = t := Host.Outcome.next.inj hexec
    refine ⟨?_, payloadLen_decodeWith_of_status⟩
    obtain hwell | ⟨e, he, hraise⟩ := hend
    · simp [hwell]
    · rw [hraise]
      exact code_le_six_of_mayRaise_decode he
  · obtain hwell | ⟨e, he, rfl⟩ := hend
    · exact .inl hwell
    · obtain rfl := eq_refused_of_mayRaise hd hc he
      exact .inr rfl

end Sys2Proof.Machine
end

section
/-! SUPPORT. The registers each command can change (R20, R29, R38, R39, R202, R320): every command's next state is the
state before it with new values in registers and memories of that command's own. -/

namespace Sys2Proof.Machine

/-- The four SET commands, which can write FLAGS (R172, R174, R176, R178), at any operand. -/
def IsSetter (i : Instr) : Prop := ∃ b, i = .setComp b ∨ i = .setEnc b ∨ i = .setFrag b ∨ i = .setAck b

/-- The table of what a command writes: `WritesOwn i s t` when `t` is `s` with other values in no place but those that `i`
can write. A command that raises an error, and one that only answers, writes the outcome registers alone (R43, R276). -/
inductive WritesOwn : Instr → State → State → Prop
  | outcome {i s} (status errByte result) : WritesOwn i s { s with status, errByte, result }
  | setter {i s} (hset : IsSetter i) (flags status errByte result) :
      WritesOwn i s { s with flags, status, errByte, result }
  | construct {c s} (intent priority flags sequence payloadLen timestamp hash nowDraws status errByte result) :
      WritesOwn (.construct c) s
        { s with intent, priority, flags, sequence, payloadLen, timestamp, hash, nowDraws, status, errByte, result }
  | encode {s} (wire wireLen hash status errByte result) :
      WritesOwn .encode s { s with wire, wireLen, hash, status, errByte, result }
  | decode {s} (sessionId intent priority flags sequence payloadLen timestamp hash payload status errByte result) :
      WritesOwn .decode s
        { s with
          sessionId, intent, priority, flags, sequence, payloadLen, timestamp, hash, payload, status, errByte, result }

/-! ### One command at a time -/

section
variable (p : Params) (s : State)

theorem State.finish_writesOwn (i : Instr) (r : Byte) : WritesOwn i s (s.finish r) := .outcome _ _ _

theorem State.raise_writesOwn (i : Instr) (e : ErrorOutcome) : WritesOwn i s (s.raise e) := .outcome _ _ _

theorem State.updateFlags_writesOwn {i : Instr} (hset : IsSetter i) (d : Bool) (f : Byte) :
    WritesOwn i s (s.updateFlags d f) := by
  obtain ⟨-, h⟩ | ⟨-, h⟩ := s.updateFlags_cases d f <;> rw [h]
  · exact .setter hset _ _ _ _
  · exact s.raise_writesOwn i _

theorem constructWith_writesOwn (c : Byte) : WritesOwn (.construct c) s (constructWith p c s) := by
  obtain ⟨-, h⟩ | ⟨-, -, h⟩ | ⟨-, -, h⟩ := constructWith_cases p s c <;> rw [h]
  · exact s.raise_writesOwn _ _
  · exact s.raise_writesOwn _ _
  · exact .construct ..

theorem encodeWith_writesOwn : WritesOwn .encode s (encodeWith p s) := by
  rw [encodeWith_frame]
  exact .encode ..

theorem decodeWith_writesOwn : WritesOwn .decode s (decodeWith p s) := by
  obtain ⟨e, -, h⟩ | ⟨n, -, h⟩ := decodeWith_cases p s <;> rw [h]
  · exact s.raise_writesOwn _ e
  · exact .decode ..

end

/-- Every command goes on, to a state that differs only where that command can write. -/
theorem exec_writesOwn (i : Instr) (s : State) : ∃ t, exec i s = .next t ∧ WritesOwn i s t := by
  cases i with
  | chkIntent imm8 => exact ⟨_, exec_chkIntent imm8 s, s.finish_writesOwn _ _⟩
  | chkComp imm8 => exact ⟨_, exec_chkComp imm8 s, s.finish_writesOwn _ _⟩
  | chkEnc imm8 => exact ⟨_, exec_chkEnc imm8 s, s.finish_writesOwn _ _⟩
  | getComp => exact ⟨_, exec_getComp s, s.finish_writesOwn _ _⟩
  | setComp imm8 => exact ⟨_, exec_setComp imm8 s, s.updateFlags_writesOwn ⟨imm8, .inl rfl⟩ _ _⟩
  | getEnc => exact ⟨_, exec_getEnc s, s.finish_writesOwn _ _⟩
  | setEnc imm8 => exact ⟨_, exec_setEnc imm8 s, s.updateFlags_writesOwn ⟨imm8, .inr (.inl rfl)⟩ _ _⟩
  | getFrag => exact ⟨_, exec_getFrag s, s.finish_writesOwn _ _⟩
  | setFrag imm8 => exact ⟨_, exec_setFrag imm8 s, s.updateFlags_writesOwn ⟨imm8, .inr (.inr (.inl rfl))⟩ _ _⟩
  | getAck => exact ⟨_, exec_getAck s, s.finish_writesOwn _ _⟩
  | setAck imm8 => exact ⟨_, exec_setAck imm8 s, s.updateFlags_writesOwn ⟨imm8, .inr (.inr (.inr rfl))⟩ _ _⟩
  | construct c => exact ⟨_, exec_construct c s, constructWith_writesOwn _ s c⟩
  | encode => exact ⟨_, exec_encode s, encodeWith_writesOwn _ s⟩
  | decode => exact ⟨_, exec_decode s, decodeWith_writesOwn _ s⟩
  | verify => exact ⟨_, exec_verify s, s.finish_writesOwn _ _⟩

end Sys2Proof.Machine
end

section
/-! SUPPORT. The statements about reset and hazards (`70_reset_and_hazards.md`), settled. -/

namespace Sys2Proof.Machine

/-- Settles O44: each row of the table of what a command writes keeps every register that the command does not own. -/
theorem commandsChangeOnlyTheirOwnRegisters : Obligations.CommandsChangeOnlyTheirOwnRegisters := by
  unfold Obligations.CommandsChangeOnlyTheirOwnRegisters
  intro i s
  obtain ⟨t, hexec, hown⟩ := exec_writesOwn i s
  refine ⟨t, hexec, ?_⟩
  cases hown with
  | outcome => simp
  | setter hset =>
    intro constructs sets
    have hsets : sets := hset
    simp [hsets]
  | construct => simp
  | encode => simp
  | decode => simp

end Sys2Proof.Machine
end

section
/-! SUPPORT. The commands keep the invariant (R30, R35 to R37, R60): the shared operations that no lemma above
names, then each command. -/

namespace Sys2Proof.Machine

/-! ### Shared operations -/

section
variable {p : Params} {s : State}

/-- The invariant speaks neither of the host's plan nor of its answers nor of the draws of NOW. -/
theorem State.Inv.takeUp (hs : s.Inv p) (rest : List HostAction) : (s.takeUp rest).Inv p :=
  hs.congr hs.intent_defined hs.payload_len_le rfl rfl rfl rfl rfl rfl

theorem State.Inv.answer (hs : s.Inv p) (v : RegValue) : (s.answer v).Inv p :=
  hs.congr hs.intent_defined hs.payload_len_le rfl rfl rfl rfl rfl rfl

theorem State.Inv.afterDraw (hs : s.Inv p) : s.afterDraw.Inv p :=
  hs.congr hs.intent_defined hs.payload_len_le rfl rfl rfl rfl rfl rfl

/-- Nor does it speak of WIRE_LEN and HASH (R29, R39). -/
theorem State.Inv.with_wireLen_hash (hs : s.Inv p) (wireLen : Word) (hash : Hash) :
    ({ s with wireLen, hash } : State).Inv p :=
  hs.congr hs.intent_defined hs.payload_len_le rfl rfl rfl rfl rfl rfl

/-- A refused command carries no byte, so refusing keeps the invariant of every state (R280). -/
theorem State.Inv.refuse (hs : s.Inv p) : (s.raise .refused).Inv p :=
  hs.raise (fun _ h => nomatch h) (fun _ h => nomatch h)

theorem State.Inv.updateFlags (hs : s.Inv p) (d : Bool) (f : Byte) : (s.updateFlags d f).Inv p := by
  cases d with
  | false => exact hs.refuse
  | true =>
    have hflags : ({ s with flags := f } : State).Inv p :=
      hs.congr hs.intent_defined hs.payload_len_le rfl rfl rfl rfl rfl rfl
    exact hflags.finish (by decide)

/-- INTENT takes a defined code only, and PAYLOAD_LEN and the outcome registers ignore the host (R23, R27,
R35 to R37). -/
theorem State.Inv.storeReg {t : State} {r : Reg} {v : RegValue} (hs : s.Inv p) (ht : s.storeReg p r v = some t) :
    t.Inv p := by
  unfold State.storeReg at ht
  split at ht <;> cases ht
  case h_3 =>
    split
    · next hcode => exact hs.congr hcode hs.payload_len_le rfl rfl rfl rfl rfl rfl
    · exact hs
  all_goals exact hs.congr hs.intent_defined hs.payload_len_le rfl rfl rfl rfl rfl rfl

end

/-! ### Commands -/

section
variable {p : Params} {s : State}

/-- CONSTRUCT puts an intent and a length in place that it has checked (R220, R222). -/
theorem constructWith_inv (hs : s.Inv p) (imm8 : Byte) : (constructWith p imm8 s).Inv p := by
  obtain ⟨-, h⟩ | ⟨-, -, h⟩ | ⟨hintent, hlen, h⟩ := constructWith_cases p s imm8 <;> rw [h]
  · exact hs.refuse
  · exact hs.raise (fun _ h => nomatch h) (fun _ h => nomatch h)
  · exact (hs.finish (r := 0x00) (by decide)).congr hintent hlen rfl rfl rfl rfl rfl rfl

/-- With PAYLOAD_LEN within bounds, all that ENCODE writes lies inside W (R230, R231). -/
theorem encodeWith_inv (hs : s.Inv p) : (encodeWith p s).Inv p := by
  have hlen : s.payloadLen.toNat ≤ 10485760 := hs.payload_len_le
  have hheader : (s.writeWs p 0 (hdr (s.header p))).Inv p := hs.writeWs (by simp)
  have hbody : (s.writeBody p).Inv p := hheader.writeWs (a := 36) (by rw [State.length_packetPayload]; omega)
  have hdigest : ((s.writeBody p).writeWs p (36 + s.payloadLen.toNat)
      ((s.writeBody p).wireHash p s.payloadLen.toNat).toList).Inv p :=
    hbody.writeWs (by rw [Vector.length_toList]; omega)
  exact (hdigest.with_wireLen_hash _ _).finish (by decide)

/-- The intent and the length that a DECODE loads have passed checks 4 and 5, and the payload fits P (R244,
R245, R247). -/
theorem State.Inv.loadPacket {n : Nat} (hs : s.Inv p) (hok : decodeChecks p s = .ok n) : (s.loadPacket p n).Inv p := by
  have hlen : (s.loadFields p n).payloadLen.toNat = n := s.payloadLen_loadPacket p hok
  obtain ⟨-, hmax, -, hintent, -, hn, -⟩ := (decodeChecks_ok_iff p s n).mp hok
  have hfields : (s.loadFields p n).Inv p :=
    hs.congr hintent (by omega) (s.loadFields_status p n) (s.loadFields_errByte p n) (s.loadFields_result p n)
      (s.loadFields_wire p n) (s.loadFields_payload p n) (s.loadFields_resets p n)
  exact hfields.writePs (by rw [State.length_readWs]; omega)

/-- The byte that a failing DECODE reports is the one that made the check fail (R243, R244). -/
theorem decodeWith_inv (hs : s.Inv p) : (decodeWith p s).Inv p := by
  obtain ⟨e, he, h⟩ | ⟨n, hok, h⟩ := decodeWith_cases p s <;> rw [h]
  · refine hs.raise ?_ ?_
    · rintro b rfl
      obtain ⟨rfl, hb⟩ : b = s.readW p 0 ∧ s.readW p 0 ≠ p.supportedVersion := by
        simpa using decodeChecks_error p s he
      exact hb
    · rintro b rfl
      obtain ⟨rfl, hb⟩ : b = s.readW p 17 ∧ p.intentDefined (s.readW p 17) = false := by
        simpa using decodeChecks_error p s he
      exact hb
  · exact (hs.loadPacket hok).finish (by decide)

end

/-- Every command goes on and keeps the invariant. -/
theorem exec_inv (i : Instr) {s : State} (hs : s.Inv Config.marsh) :
    ∃ t, exec i s = .next t ∧ t.Inv Config.marsh := by
  cases i with
  | chkIntent imm8 => exact ⟨_, exec_chkIntent imm8 s, hs.finish (boolByte_le _)⟩
  | chkComp imm8 => exact ⟨_, exec_chkComp imm8 s, hs.finish (boolByte_le _)⟩
  | chkEnc imm8 => exact ⟨_, exec_chkEnc imm8 s, hs.finish (boolByte_le _)⟩
  | getComp => exact ⟨_, exec_getComp s, hs.finish (Flags.getComp_le _)⟩
  | setComp imm8 => exact ⟨_, exec_setComp imm8 s, hs.updateFlags _ _⟩
  | getEnc => exact ⟨_, exec_getEnc s, hs.finish (Flags.getEnc_le _)⟩
  | setEnc imm8 => exact ⟨_, exec_setEnc imm8 s, hs.updateFlags _ _⟩
  | getFrag => exact ⟨_, exec_getFrag s, hs.finish (Flags.getFrag_le _)⟩
  | setFrag imm8 => exact ⟨_, exec_setFrag imm8 s, hs.updateFlags _ _⟩
  | getAck => exact ⟨_, exec_getAck s, hs.finish (Flags.getAck_le _)⟩
  | setAck imm8 => exact ⟨_, exec_setAck imm8 s, hs.updateFlags _ _⟩
  | construct imm8 => exact ⟨_, exec_construct imm8 s, constructWith_inv hs imm8⟩
  | encode => exact ⟨_, exec_encode s, encodeWith_inv hs⟩
  | decode => exact ⟨_, exec_decode s, decodeWith_inv hs⟩
  | verify => exact ⟨_, exec_verify s, hs.finish (boolByte_le _)⟩

/-- A word written to CMD goes on, whether it encodes a command or not, and keeps the invariant (R34, R123). -/
theorem issueCommand_inv (w : Half) {s : State} (hs : s.Inv Config.marsh) :
    ∃ t, issueCommand w s = .next t ∧ t.Inv Config.marsh := by
  cases hw : decode w with
  | ok i =>
    rw [issueCommand_ok s hw]
    exact exec_inv i hs
  | error e => exact ⟨_, issueCommand_error s hw, hs.refuse⟩

end Sys2Proof.Machine
end

section
/-! SUPPORT. The actions of the host (R10, R42, R47, R67): which of them go on, and that those keep the invariant. -/

namespace Sys2Proof.Machine

variable {s t : State} {n : Nat} {r : Reg} {v : RegValue}

/-! ### A host register write -/

/-- A register other than CMD stores exactly the values of its own width (R42). -/
theorem State.storeReg_isSome (p : Params) (s : State) (hc : r ≠ .cmd) (v : RegValue) :
    (s.storeReg p r v).isSome = r.fits v := by
  cases r with
  | cmd => exact absurd rfl hc
  | _ => cases v <;> rfl

/-- A value that is no 16-bit word is refused at CMD as at any other register (R34, R42). -/
theorem hostWriteReg_cmd_wrongWidth (s : State) (h : Reg.cmd.fits v = false) :
    hostWriteReg Reg.cmd.number v s = .refused (.wrongWidth Reg.cmd.number) := by
  cases v with
  | half w => exact absurd h (by simp [Reg.fits])
  | _ => rfl

theorem hostWriteReg_wrongWidth (hc : r ≠ .cmd) (h : s.storeReg Config.marsh r v = none) :
    hostWriteReg r.number v s = .refused (.wrongWidth r.number) := by
  unfold hostWriteReg
  rw [Reg.ofNumber_number]
  split
  case h_1 => simp_all
  case h_2 => simp_all
  case h_3 hr _ =>
    cases hr
    rw [h]

/-- What a host register write can do (R34, R42, R47): it is refused when it is no action the host has, and otherwise it
issues a command word or stores the value. -/
theorem hostWriteReg_cases (n : Nat) (v : RegValue) (s : State) :
    ((HostAction.writeReg n v).wellFormed = false ∧ ∃ e, hostWriteReg n v s = .refused e) ∨
    ((HostAction.writeReg n v).wellFormed = true ∧ ∃ w, hostWriteReg n v s = issueCommand w s) ∨
    ((HostAction.writeReg n v).wellFormed = true ∧
      ∃ r t, s.storeReg Config.marsh r v = some t ∧ hostWriteReg n v s = .next t) := by
  cases hn : Reg.ofNumber n with
  | none => exact .inl ⟨by simp [HostAction.wellFormed, hn], _, hostWriteReg_noSuchRegister hn⟩
  | some r =>
    have hwf : (HostAction.writeReg n v).wellFormed = r.fits v := by simp [HostAction.wellFormed, hn]
    obtain rfl := Reg.ofNumber_eq_some_iff.mp hn
    rw [hwf]
    by_cases hc : r = .cmd
    · subst hc
      cases hfit : Reg.cmd.fits v with
      | false => exact .inl ⟨rfl, _, hostWriteReg_cmd_wrongWidth s hfit⟩
      | true =>
        cases v with
        | half w => exact .inr (.inl ⟨rfl, w, hostWriteReg_cmd w s⟩)
        | _ => exact nomatch hfit
    · rw [← State.storeReg_isSome Config.marsh s hc]
      cases hstore : s.storeReg Config.marsh r v with
      | none => exact .inl ⟨rfl, _, hostWriteReg_wrongWidth hc hstore⟩
      | some t => exact .inr (.inr ⟨rfl, r, t, hstore, (hostWriteReg_eq_next_iff hc).mpr hstore⟩)

/-! ### Which actions go on (R42, R47, R67) -/

/-- The outcome is a next state when `c` holds and a refusal when it does not. -/
def GoesOnExactlyIf (c : Bool) (o : Host.Outcome State Fault Refusal) : Prop :=
  (c = true → ∃ t, o = .next t) ∧ (c = false → ∃ e, o = .refused e)

theorem goesOnExactlyIf_next (t : State) : GoesOnExactlyIf true (.next t) :=
  ⟨fun _ => ⟨t, rfl⟩, Bool.noConfusion⟩

theorem goesOnExactlyIf_refused (e : Refusal) : GoesOnExactlyIf false (.refused e) :=
  ⟨Bool.noConfusion, fun _ => ⟨e, rfl⟩⟩

/-- The shape of the four byte accesses: the address decides (R67). -/
theorem goesOnExactlyIf_ite (c : Prop) [Decidable c] (t : State) (e : Refusal) :
    GoesOnExactlyIf (decide c) (if c then .next t else .refused e) := by
  by_cases h : c
  · rw [if_pos h, decide_eq_true h]
    exact goesOnExactlyIf_next t
  · rw [if_neg h, decide_eq_false h]
    exact goesOnExactlyIf_refused e

/-- No word written to CMD stops the machine (R34, R280). -/
theorem issueCommand_goesOn (w : Half) (s : State) : ∃ t, issueCommand w s = .next t := by
  cases hw : decode w with
  | ok i =>
    obtain ⟨t, ht, -⟩ := exec_writesOwn i s
    exact ⟨t, (issueCommand_ok s hw).trans ht⟩
  | error e => exact ⟨_, issueCommand_error s hw⟩

theorem hostWriteReg_goesOnExactlyIf (n : Nat) (v : RegValue) (s : State) :
    GoesOnExactlyIf (HostAction.writeReg n v).wellFormed (hostWriteReg n v s) := by
  obtain ⟨hwf, e, h⟩ | ⟨hwf, w, h⟩ | ⟨hwf, r, t, -, h⟩ := hostWriteReg_cases n v s <;> rw [hwf, h]
  · exact goesOnExactlyIf_refused e
  · obtain ⟨t, ht⟩ := issueCommand_goesOn w s
    rw [ht]
    exact goesOnExactlyIf_next t
  · exact goesOnExactlyIf_next t

theorem hostReadReg_goesOnExactlyIf (n : Nat) (s : State) :
    GoesOnExactlyIf (HostAction.readReg n).wellFormed (hostReadReg n s) := by
  change GoesOnExactlyIf (Reg.ofNumber n).isSome _
  unfold hostReadReg
  split
  · next h => rw [h]; exact goesOnExactlyIf_refused _
  · next h => rw [h]; exact goesOnExactlyIf_next _
  · next h => rw [h]; exact goesOnExactlyIf_next _

/-- Every action that the host has goes on, and every other is refused (R42, R47, R67). -/
theorem hostAct_goesOnExactlyIf (act : HostAction) (s : State) : GoesOnExactlyIf act.wellFormed (hostAct act s) := by
  cases act with
  | writeReg n v => exact hostWriteReg_goesOnExactlyIf n v s
  | readReg n => exact hostReadReg_goesOnExactlyIf n s
  | writeWire a b => exact goesOnExactlyIf_ite _ _ _
  | readWire a => exact goesOnExactlyIf_ite _ _ _
  | writePayload a b => exact goesOnExactlyIf_ite _ _ _
  | readPayload a => exact goesOnExactlyIf_ite _ _ _
  | reset => exact goesOnExactlyIf_next _

/-! ### The actions that go on keep the invariant -/

section
variable (hs : s.Inv Config.marsh)
include hs

theorem hostWriteReg_inv (h : hostWriteReg n v s = .next t) : t.Inv Config.marsh := by
  obtain ⟨-, e, ho⟩ | ⟨-, w, ho⟩ | ⟨-, r, u, hstore, ho⟩ := hostWriteReg_cases n v s <;> rw [ho] at h
  · cases h
  · obtain ⟨u, hu, hinv⟩ := issueCommand_inv w hs
    rw [hu] at h
    cases h
    exact hinv
  · cases h
    exact hs.storeReg hstore

theorem hostReadReg_inv (h : hostReadReg n s = .next t) : t.Inv Config.marsh := by
  unfold hostReadReg at h
  split at h <;> cases h
  · exact hs.afterDraw.answer _
  · exact hs.answer _

theorem hostWriteWire_inv {a : Nat} {b : Byte} (h : hostWriteWire a b s = .next t) : t.Inv Config.marsh := by
  unfold hostWriteWire at h
  split at h <;> cases h
  next ha => exact hs.writeWs ha

theorem hostReadWire_inv {a : Nat} (h : hostReadWire a s = .next t) : t.Inv Config.marsh := by
  unfold hostReadWire at h
  split at h <;> cases h
  exact hs.answer _

theorem hostWritePayload_inv {a : Nat} {b : Byte} (h : hostWritePayload a b s = .next t) : t.Inv Config.marsh := by
  unfold hostWritePayload at h
  split at h <;> cases h
  next ha => exact hs.writePs ha

theorem hostReadPayload_inv {a : Nat} (h : hostReadPayload a s = .next t) : t.Inv Config.marsh := by
  unfold hostReadPayload at h
  split at h <;> cases h
  exact hs.answer _

end

/-- Reset gives the registers of `State.reset` and empty memories, whose unwritten bytes are those of the next reset
(R310). -/
theorem hostReset_inv (h : hostReset s = .next t) : t.Inv Config.marsh := by
  cases h
  exact { State.resetOf_inv Config.marsh with
    wire_wf := Memory.wf_empty _ _
    payload_wf := Memory.wf_empty _ _ }

theorem hostAct_inv {act : HostAction} (hs : s.Inv Config.marsh) (h : hostAct act s = .next t) :
    t.Inv Config.marsh := by
  cases act with
  | writeReg n v => exact hostWriteReg_inv hs h
  | readReg n => exact hostReadReg_inv hs h
  | writeWire a b => exact hostWriteWire_inv hs h
  | readWire a => exact hostReadWire_inv hs h
  | writePayload a b => exact hostWritePayload_inv hs h
  | readPayload a => exact hostReadPayload_inv hs h
  | reset => exact hostReset_inv h

/-- The step with no action of the host pending (R295). -/
theorem step_of_pending_nil (h : s.pending = []) : step s = .next s := by
  simp [step, nextAction, h]

end Sys2Proof.Machine
end

section
/-! SUPPORT. The encoder is the inverse of the decoder on the words that decode (R120, R121). -/

namespace Sys2Proof

/-- A row whose mask leaves imm8 free matches the words of its opcode (R121). -/
theorem encode_of_matches_operand_row {op imm8 a : Byte} {f : Byte → Instr} (hf : ∀ b, encode (f b) = wordOf a b)
    (h : OpcodeRow.matchesWord ⟨0xFF00, wordOf a 0, f⟩ (wordOf op imm8) = true) :
    encode (f imm8) = wordOf op imm8 := by
  rw [matches_operand_row, decide_eq_true_eq] at h
  rw [h, hf]

/-- A row whose mask takes imm8 in matches one word (R121). -/
theorem encode_of_matches_plain_row {op imm8 a : Byte} {f : Byte → Instr} (hf : ∀ b, encode (f b) = wordOf a 0)
    (h : OpcodeRow.matchesWord ⟨0xFFFF, wordOf a 0, f⟩ (wordOf op imm8) = true) :
    encode (f imm8) = wordOf op imm8 := by
  rw [matches_plain_row, decide_eq_true_eq] at h
  rw [h.1, h.2, hf]

/-- The command that a row of the table makes of a word it matches has that word for its encoding (R121). -/
theorem encode_build_of_matchesWord (op imm8 : Byte) :
    ∀ r ∈ opcodeTable, r.matchesWord (wordOf op imm8) = true → encode (r.build imm8) = wordOf op imm8 := by
  rw [opcodeTable_eq]
  simp only [List.forall_mem_cons]
  exact ⟨encode_of_matches_operand_row fun _ => rfl, encode_of_matches_operand_row fun _ => rfl,
    encode_of_matches_operand_row fun _ => rfl, encode_of_matches_plain_row fun _ => rfl,
    encode_of_matches_operand_row fun _ => rfl, encode_of_matches_plain_row fun _ => rfl,
    encode_of_matches_operand_row fun _ => rfl, encode_of_matches_plain_row fun _ => rfl,
    encode_of_matches_operand_row fun _ => rfl, encode_of_matches_plain_row fun _ => rfl,
    encode_of_matches_operand_row fun _ => rfl, encode_of_matches_operand_row fun _ => rfl,
    encode_of_matches_plain_row fun _ => rfl, encode_of_matches_plain_row fun _ => rfl,
    encode_of_matches_plain_row fun _ => rfl, List.forall_mem_nil _⟩

/-- A word that decodes matches a row, which makes the command of the word's imm8 (R121). -/
theorem exists_row_of_decode {w : Half} {i : Instr} (h : decode w = .ok i) :
    ∃ r ∈ opcodeTable, r.matchesWord w = true ∧ r.build (imm8Of w) = i := by
  unfold decode at h
  split at h
  · next r hr =>
    cases h
    exact ⟨r, List.mem_of_find?_eq_some hr, List.find?_some (p := fun r : OpcodeRow => r.matchesWord w) hr, rfl⟩
  · cases h

end Sys2Proof
end

section
/-! SUPPORT. The statements about reset, the invariant, the step and the command word, settled. -/

namespace Sys2Proof.Machine

/-- Settles O4: an idle step changes nothing, and each action of the host that goes on keeps the invariant. -/
theorem everyStepKeepsTheInvariant : Obligations.EveryStepKeepsTheInvariant := by
  unfold Obligations.EveryStepKeepsTheInvariant
  intro s t hs ht
  cases hp : s.pending with
  | nil =>
    rw [step_of_pending_nil hp] at ht
    cases ht
    exact hs
  | cons act rest =>
    rw [step_cons hp] at ht
    exact hostAct_inv (hs.takeUp rest) ht

/-- Settles O5, command by command. -/
theorem decodeOfEncodeIsTheCommand : Obligations.DecodeOfEncodeIsTheCommand := by
  unfold Obligations.DecodeOfEncodeIsTheCommand
  intro i
  cases i with
  | chkIntent imm8 => exact Laws.Encoding.chkIntent imm8
  | chkComp imm8 => exact Laws.Encoding.chkComp imm8
  | chkEnc imm8 => exact Laws.Encoding.chkEnc imm8
  | getComp => exact Laws.Encoding.getComp
  | setComp imm8 => exact Laws.Encoding.setComp imm8
  | getEnc => exact Laws.Encoding.getEnc
  | setEnc imm8 => exact Laws.Encoding.setEnc imm8
  | getFrag => exact Laws.Encoding.getFrag
  | setFrag imm8 => exact Laws.Encoding.setFrag imm8
  | getAck => exact Laws.Encoding.getAck
  | setAck imm8 => exact Laws.Encoding.setAck imm8
  | construct imm8 => exact Laws.Encoding.construct imm8
  | encode => exact Laws.Encoding.encode
  | decode => exact Laws.Encoding.decode
  | verify => exact Laws.Encoding.verify

/-- Settles O6: the command comes from a row that the word matches, and no row drops a bit of a word it matches. -/
theorem encodeOfDecodeIsTheWord : Obligations.EncodeOfDecodeIsTheWord := by
  unfold Obligations.EncodeOfDecodeIsTheWord
  intro w i hw
  obtain ⟨r, hr, hmatch, rfl⟩ := exists_row_of_decode hw
  rw [← wordOf_fields w] at hmatch
  rw [encode_build_of_matchesWord _ _ r hr hmatch, wordOf_fields]

/-- Settles O53: a step with an action pending is that action, which goes on exactly when it is well-formed. -/
theorem stepsAreRefusedExactlyOnIllFormedActions : Obligations.StepsAreRefusedExactlyOnIllFormedActions := by
  unfold Obligations.StepsAreRefusedExactlyOnIllFormedActions
  intro s act rest hp
  rw [step_cons hp]
  exact hostAct_goesOnExactlyIf act (s.takeUp rest)

/-- Settles O1: each register and each address as `State.resetOf` has it. -/
theorem resetStateHoldsTheTableOfValues : Obligations.ResetStateHoldsTheTableOfValues := by
  unfold Obligations.ResetStateHoldsTheTableOfValues
  exact ⟨rfl, rfl, rfl, rfl, rfl, rfl, rfl, rfl, rfl, rfl, rfl, rfl, rfl, rfl, rfl, rfl, fun _ => rfl, fun _ => rfl⟩

/-- Settles O2: the step takes the reset up, and the port does what R310 says. -/
theorem resetActionRestoresEveryRegister : Obligations.ResetActionRestoresEveryRegister := by
  unfold Obligations.ResetActionRestoresEveryRegister
  intro s rest hp
  calc step s = hostReset (s.takeUp rest) := step_cons hp
    _ = _ := rfl

/-- Settles O3: the reset values meet the invariant whatever the parameters are. -/
theorem resetStateSatisfiesTheInvariant : Obligations.ResetStateSatisfiesTheInvariant := by
  unfold Obligations.ResetStateSatisfiesTheInvariant
  exact State.resetOf_inv Config.marsh

/-- Settles O8: the fifteen words are the encodings of their commands, which O5 says decode to them. -/
theorem wordsOfTheSpecDecode : Obligations.WordsOfTheSpecDecode := by
  unfold Obligations.WordsOfTheSpecDecode
  have roundTrip : ∀ i : Instr, decode (encode i) = .ok i := decodeOfEncodeIsTheCommand
  exact ⟨roundTrip (.chkIntent 0x01), roundTrip (.chkComp 0x04), roundTrip (.chkEnc 0x02), roundTrip .getComp,
    roundTrip (.setComp 0x02), roundTrip .getEnc, roundTrip (.setEnc 0x02), roundTrip .getFrag,
    roundTrip (.setFrag 0x01), roundTrip .getAck, roundTrip (.setAck 0x01), roundTrip (.construct 0x01),
    roundTrip .encode, roundTrip .decode, roundTrip .verify⟩

/-- Settles O10: with nothing pending there is nothing to take up. -/
theorem idleMachineStaysAsItIs : Obligations.IdleMachineStaysAsItIs := by
  unfold Obligations.IdleMachineStaysAsItIs
  exact fun _ => step_of_pending_nil

end Sys2Proof.Machine
end
